-- ==== Sys2Proof/Word.lean ====
section
/-! DEFINITION. The word types: bytes of the buffer, 16-bit CRC quantities (R2), 32-bit register-window words (R13). -/

namespace Sys2Proof

/-- One byte of the buffer memory (R37). -/
abbrev Byte := BitVec 8

/-- A CRC value, polynomial, initial value or output-XOR mask: 16 bits, unsigned (R2, R7). -/
abbrev Half := BitVec 16

/-- A register-window value or a command word: 32 bits (R13, R51). -/
abbrev Word := BitVec 32

end Sys2Proof
end

