-- ==== Sys2Proof/Config.lean ====
section
/-! DEFINITION. What is fixed for one block instance: the configuration tuple's shape (R9), the names of the four presets
(R86), the parameters of R4 as plain data, and the one free value (R49(c)). -/

namespace Sys2Proof

/-- The four variant configurations of R86, by name. -/
inductive Preset where
  | xmodem
  | kermit
  | ccittFalse
  | usb
deriving DecidableEq, Repr

/-- The configuration tuple `cfg = (poly, init, xorout, rev)` of R9, in the order of the preset table. -/
structure Cfg where
  poly   : Half
  init   : Half
  xorout : Half
  rev    : Bool
deriving DecidableEq, Repr

/-- A run of `size` buffer addresses from `base` on. -/
structure Region where
  base : Nat
  size : Nat
deriving DecidableEq, Repr

/-- The parameters of R4, but for `Mem`, which State holds as its memory. They are data, so that every statement about
every state holds for every legal value of them; no step changes one. -/
structure Params where
  /-- `LEN_W`: width of the internal length counter, 1..32. -/
  lenW : Nat
  /-- `ADDR_W`: width of a buffer address, 1..32. -/
  addrW : Nat
  /-- `CRC_BASE`: bus address of the register window, 64-byte aligned. -/
  crcBase : Nat
  /-- `Readable(a)`: the buffer addresses that admit a one-byte read, as the union of these runs. -/
  readable : List Region
deriving DecidableEq, Repr

/-- The legal values of R4's table. -/
abbrev Params.wf (p : Params) : Prop :=
  1 ≤ p.lenW ∧ p.lenW ≤ 32 ∧ 1 ≤ p.addrW ∧ p.addrW ≤ 32 ∧ p.crcBase % 64 = 0

/-- The parameters of the reset state: `LEN_W` and `ADDR_W` at R4's reference values.
DESIGN CHOICE (log entry 1, unsafe): `CRC_BASE` 0 and `Readable` 0x1000..0x2FFF (the range the spec's own vectors use);
R4 leaves both OPEN. -/
def Params.reference : Params :=
  { lenW := 8, addrW := 32, crcBase := 0, readable := [{ base := 0x1000, size := 0x2000 }] }

/-- The n-th unconstrained byte: what a buffer byte holds after another agent wrote it during a command, or after a host
store that was not made visible (R49(b), R49(c), U3, U15). It has no body: nothing can be proved of its value
(log entry 6). -/
opaque Config.freeByte : Nat → Byte

end Sys2Proof
end

