-- ==== Sys2Proof/Syntax.lean ====
section
/-! DEFINITION. The six commands of the opcode table (R52), one constructor per row. -/

namespace Sys2Proof

/-- A command, with its operands read out of the command word (R54). -/
inductive Instr where
  /-- NOP (R96). -/
  | nop
  /-- CALC (R76): the checksum of the buffer from INIT. (`calc` is a word of Lean's own.) -/
  | calcInit
  /-- CALCS (R78): the checksum of the buffer from SEED. -/
  | calcSeed
  /-- REFLECT (R66): `bits` is the width `Bits = ARG + 1`, 1..16. -/
  | reflect (bits : Nat)
  /-- PRESET (R87): `p` is row P of the preset table. -/
  | preset (p : Preset)
  /-- CLRERR (R97). -/
  | clrerr
deriving DecidableEq, Repr

end Sys2Proof
end

