-- ==== Sys2Proof/WellFormed.lean ====
section
/-! DEFINITION. Which terms of `Instr` a command word can stand for: the Reflect width must be in 1..16 (R63, D10); every
other operand is legal at every value (R54). -/

namespace Sys2Proof

/-- The check itself, one arm per command. -/
def Instr.wellFormed : Instr → Bool
  | .nop => true
  | .calcInit => true
  | .calcSeed => true
  | .reflect bits => decide (1 ≤ bits) && decide (bits ≤ 16)
  | .preset _ => true
  | .clrerr => true

/-- The instruction is one of the 24 that a command word can encode (R57). -/
abbrev Instr.WellFormed (i : Instr) : Prop := i.wellFormed = true

end Sys2Proof
end

