-- ==== Sys2Proof/Decode.lean ====
section
/-! DEFINITION. Command words: the decode table of R52 row by row, the operand assembly of R54, the decoder, total on
every 32-bit word and rejecting by name (R55, R56), and the encoder written from the fields of R51. -/

namespace Sys2Proof

/-- The operation a row of R52's table names. -/
inductive Op where
  | nop
  | calcInit
  | calcSeed
  | reflect
  | preset
  | clrerr
deriving DecidableEq, Repr

/-- A row of R52's table: a word `w` selects it when `w & mask = pattern`. -/
structure OpRow where
  op      : Op
  pattern : Word
  mask    : Word
deriving DecidableEq, Repr

/-- R52's table, in its order. -/
def opRows : List OpRow :=
  [ { op := .nop, pattern := 0x00000000, mask := 0xFFFFFFFF },
    { op := .calcInit, pattern := 0x00000001, mask := 0xFFFFFFFF },
    { op := .calcSeed, pattern := 0x00000002, mask := 0xFFFFFFFF },
    { op := .reflect, pattern := 0x00000003, mask := 0xFFFFF0FF },
    { op := .preset, pattern := 0x00000004, mask := 0xFFFFFCFF },
    { op := .clrerr, pattern := 0x00000005, mask := 0xFFFFFFFF } ]

/-- `w & mask == match` (R52). -/
def OpRow.selects (r : OpRow) (w : Word) : Bool := w &&& r.mask == r.pattern

/-- The field OP = w[7:0] (R51). -/
def fieldOp (w : Word) : BitVec 8 := w.extractLsb' 0 8

/-- The field ARG = w[11:8] (R51). -/
def fieldArg (w : Word) : BitVec 4 := w.extractLsb' 8 4

/-- The field RSV = w[31:12] (R51). -/
def fieldRsv (w : Word) : BitVec 20 := w.extractLsb' 12 20

/-- The preset that P = ARG[1:0] selects (R86). -/
def presetOfIndex (p : BitVec 2) : Preset :=
  if p = 0 then .xmodem else if p = 1 then .kermit else if p = 2 then .ccittFalse else .usb

/-- The index P of a preset (R86). -/
def presetIndex : Preset → BitVec 4
  | .xmodem => 0
  | .kermit => 1
  | .ccittFalse => 2
  | .usb => 3

/-- Operand assembly (R54): `Bits = zext_5(ARG) + 1`, `P = ARG[1:0]`, no other operand in the word. -/
def assemble (op : Op) (w : Word) : Instr :=
  match op with
  | .nop => .nop
  | .calcInit => .calcInit
  | .calcSeed => .calcSeed
  | .reflect => .reflect ((fieldArg w).toNat + 1)
  | .preset => .preset (presetOfIndex ((fieldArg w).setWidth 2))
  | .clrerr => .clrerr

/-- Why a word is illegal (R55, R56). The names are the model's (log entry 12): the block only records ILLEGAL_CMD. -/
inductive DecodeError where
  /-- OP is 0x06..0xFF, which R53 leaves unassigned. -/
  | unassignedOp (op : BitVec 8)
  /-- OP is assigned, and RSV = w[31:12] is not zero. -/
  | reservedBits (rsv : BitVec 20)
  /-- OP is assigned, RSV is zero, and ARG has a bit set that R54 says must be zero. -/
  | argBits (arg : BitVec 4)
deriving DecidableEq, Repr

/-- The name under which a word that no row selects is rejected. -/
def rejectReason (w : Word) : DecodeError :=
  if 6 ≤ (fieldOp w).toNat then .unassignedOp (fieldOp w)
  else if fieldRsv w ≠ 0 then .reservedBits (fieldRsv w)
  else .argBits (fieldArg w)

/-- Decoding (R52): the first row that selects the word, or illegal (R56). -/
def decode (w : Word) : Except DecodeError Instr :=
  match opRows.find? (fun r => r.selects w) with
  | some r => .ok (assemble r.op w)
  | none => .error (rejectReason w)

/-- The operation code of a command (R53). -/
def opcode : Instr → BitVec 8
  | .nop => 0x00
  | .calcInit => 0x01
  | .calcSeed => 0x02
  | .reflect _ => 0x03
  | .preset _ => 0x04
  | .clrerr => 0x05

/-- The ARG field of a command (R54). -/
def argument : Instr → BitVec 4
  | .nop => 0
  | .calcInit => 0
  | .calcSeed => 0
  | .reflect bits => BitVec.ofNat 4 (bits - 1)
  | .preset p => presetIndex p
  | .clrerr => 0

/-- Encoding (R51): RSV = 0, then ARG, then OP. -/
def encode (i : Instr) : Word := (0#20 ++ argument i) ++ opcode i

/-- The instruction the decoder reads from a word given as the opcode table numbers its bits. A command word is moved
whole (R44), so no byte order enters; bits at and above `nbits` are zero. -/
def decodeTableWord (nbits w : Nat) : Option Instr :=
  match decode (BitVec.ofNat 32 (w % 2 ^ nbits)) with
  | .ok i => some i
  | .error _ => none

end Sys2Proof
end

