-- ==== Sys2Proof/Machine/State.lean ====
section
/-! DEFINITION. State as plain data: the registers of one block instance (R11), the parameters and the buffer memory it
reads (R4), the queue of outside events, and what host reads returned; the reasons a step can stop; the state after reset
(R34, R116). -/

namespace Sys2Proof.Machine

/-- The machine stops with a fault. -/
inductive Fault where
  /-- Raised by the outside events `HostEvent.store` and `HostEvent.race` whose buffer address does not exist: R37 gives
  the buffer memory ADDR_W-bit addresses. Never raised by a command or a window access. Safe (log entry 8): the model
  stops where the spec gives nothing. -/
  | noBufferAddress (address : Nat)
deriving DecidableEq, Repr

/-- The model gives the step no meaning. -/
inductive Refusal where
  /-- Raised by `exec` for a command that is not modelled; the string is its mnemonic. Safe. No arm uses it. -/
  | notModelled (mnemonic : String)
  /-- Raised by a host access to the register window that is not 32 bits wide at an offset that is a multiple of 4:
  "it has no meaning and a model gives it no step" (R44, U9). Safe. -/
  | windowAccess
  /-- Raised by REFLECT at a width outside 1..16, which no command word encodes (R63; U6 `refuse`). Safe. -/
  | reflectWidth (bits : Nat)
deriving DecidableEq, Repr

/-- The errors a command detects (R101). -/
inductive ErrCode where
  | illegalCmd
  | nullBuf
  | busFault
  | lenRange
deriving DecidableEq, Repr

/-- What the outside does to the block, one at a time and between commands (R10, R117). Addresses of `write` and `read`
are bus addresses of the host; those of `store` and `race` are buffer-memory addresses (R36). -/
inductive HostEvent where
  /-- A host write of `data`, `bytes` wide, at bus address `address`. -/
  | write (address bytes : Nat) (data : Word)
  /-- A host read, `bytes` wide, at bus address `address`. -/
  | read (address bytes : Nat)
  /-- A host store of one byte to the buffer memory, visible to every later command (R49(b)). -/
  | store (address : Nat) (byte : Byte)
  /-- The byte at this buffer address becomes unconstrained: another agent writes it during the next command (R49(c),
  U3), or a host store to it was not made visible (U15). -/
  | race (address : Nat)
  /-- The platform resets the block (R116, R117). -/
  | reset
deriving DecidableEq, Repr

/-- The state. The registers are the whole architectural state of the block (R11); `params` and `mem` are R4's
parameters; `pending`, `observed` and `draws` are the model's own. -/
structure State where
  /-- POLY (R15). -/
  poly : Half
  /-- INIT (R16). -/
  init : Half
  /-- XOROUT (R17). -/
  xorout : Half
  /-- CTRL.REV (R18): false selects the forward path, true the reflected path. -/
  ctrlRev : Bool
  /-- CTRL.LCHK (R18): true makes an over-long LEN an error. -/
  ctrlLchk : Bool
  /-- ADDR (R20); bits ADDR_W and up are zero. -/
  addr : Word
  /-- LEN (R21). -/
  len : Word
  /-- SEED (R22). -/
  seed : Half
  /-- RESULT (R24). -/
  result : Half
  /-- RFLIN (R23). -/
  rflin : Half
  /-- RFLOUT (R25). -/
  rflout : Half
  /-- STATUS.ERR (R27). -/
  statusErr : BitVec 4
  /-- STATUS.TRUNC (R28). -/
  statusTrunc : Bool
  /-- LEN_W, ADDR_W, CRC_BASE and Readable (R4). -/
  params : Params
  /-- Mem (R4, R37), in the canonical form of `Memory.wf`. -/
  mem : List Host.Cell
  /-- Outside events not yet performed, oldest first: the host's program (R14, R61). The model's own (log entry 3). -/
  pending : List HostEvent
  /-- The values host reads returned, oldest first (R61). The model's own (log entry 5). -/
  observed : List Word
  /-- How many free bytes have been drawn. The model's own (log entry 6). -/
  draws : Nat
deriving DecidableEq, Repr

/-- The state right after reset: every register as R34 and R116 say, the parameters at their reference values, no byte of
memory listed, no event pending.
DESIGN CHOICE (log entries 1, 2, 3, 5, 6): the values of `params`, `mem`, `pending`, `observed` and `draws`. -/
def State.reset : State :=
  { poly := 0x1021, init := 0x0000, xorout := 0x0000, ctrlRev := false, ctrlLchk := false, addr := 0, len := 0,
    seed := 0x0000, result := 0x0000, rflin := 0x0000, rflout := 0x0000, statusErr := 0, statusTrunc := false,
    params := Params.reference, mem := [], pending := [], observed := [], draws := 0 }

end Sys2Proof.Machine
end

