-- ==== Sys2Proof/Machine/Flags.lean ====
section
/-! DEFINITION. STATUS: the error codes (R101), the rule that keeps the first error (R103), the truncation flag (R28,
R81), and the word a read of STATUS returns (R29, R91). -/

namespace Sys2Proof.Machine

/-- The code of an error (R101). Codes 5..15 are never produced. -/
def ErrCode.code : ErrCode → BitVec 4
  | .illegalCmd => 1
  | .nullBuf => 2
  | .busFault => 3
  | .lenRange => 4

/-- STATUS.ERR after an error with code `code` (R103): the first error is kept. -/
def firstError (err code : BitVec 4) : BitVec 4 := if err = 0 then code else err

/-- Whether LEN does not fit the `LEN_W`-bit counter, `LEN >= 2^LEN_W` (R28, R74). -/
def lenOverflows (lenW : Nat) (len : Word) : Bool := decide (2 ^ lenW ≤ len.toNat)

/-- A one-bit field as a 32-bit word, at bit 0. -/
def flagWord (b : Bool) : Word := if b then 1 else 0

/-- The word a read of STATUS returns: ERR in bits 3:0, TRUNC in bit 8, every other bit zero (R29, R91). -/
def statusWord (err : BitVec 4) (trunc : Bool) : Word := (flagWord trunc <<< 8) ||| err.setWidth 32

/-- The word a read of CTRL returns: REV in bit 0, LCHK in bit 1, every other bit zero (R18, R91). -/
def ctrlWord (rev lchk : Bool) : Word := (flagWord lchk <<< 1) ||| flagWord rev

end Sys2Proof.Machine
end

