-- ==== Sys2Proof/Machine/Ops.lean ====
section
/-! DEFINITION. The named operations over memory and registers: reading and writing the buffer memory (R37, R41),
recording an error and clearing it (R103, R97), writing a command's results, reset (R116). -/

namespace Sys2Proof.Machine

/-- What an unlisted address of the buffer memory reads as. DESIGN CHOICE (log entry 2, unsafe): the spec gives memory no
contents. Any contents can be listed, so only claims about the reset state can lean on this value. -/
def memDefault : Byte := 0

/-- The canonical form of a memory: addresses strictly rising, and no byte listed that an unlisted address reads as. -/
abbrev Memory.wf (m : List Host.Cell) : Prop :=
  m.Pairwise (fun x y => x.1 < y.1) ∧ ∀ c ∈ m, c.2 ≠ memDefault

/-- `Mem(a)` (R4): the byte at an address. -/
def Memory.read (m : List Host.Cell) (a : Nat) : Byte :=
  match m with
  | [] => memDefault
  | c :: rest => if c.1 = a then c.2 else Memory.read rest a

/-- The cell for byte `b` at address `a`, or none where `a` would read so anyway. -/
def Memory.cell (a : Nat) (b : Byte) : List Host.Cell := if b = memDefault then [] else [(a, b)]

/-- The memory in which address `a` holds `b`, in canonical form. -/
def Memory.write (m : List Host.Cell) (a : Nat) (b : Byte) : List Host.Cell :=
  match m with
  | [] => Memory.cell a b
  | c :: rest =>
    if a < c.1 then Memory.cell a b ++ c :: rest
    else if a = c.1 then Memory.cell a b ++ rest
    else c :: Memory.write rest a b

/-- `Readable(a)` (R4). -/
def readable (p : Params) (a : Nat) : Bool :=
  p.readable.any (fun r => decide (r.base ≤ a) && decide (a < r.base + r.size))

/-- `MemRead(a, 1)` (R41). -/
def memRead (s : State) (a : Nat) : Except ErrCode Byte :=
  if readable s.params a then .ok (Memory.read s.mem a) else .error .busFault

/-- `raise Error(code)` (R103, R104): the code is recorded if none is, and nothing else changes; the command that raises it
does nothing more. This is how the block takes an exception: there is no trap, no vector and no saved state (R100,
R108). -/
def raiseError (e : ErrCode) (s : State) : State := { s with statusErr := firstError s.statusErr e.code }

/-- Clearing the recorded error (R97, R108): what stands for a return. -/
def clearError (s : State) : State := { s with statusErr := 0 }

/-- The results of a CALC or CALCS that completes (R75). -/
def setResult (r : Half) (trunc : Bool) (s : State) : State := { s with result := r, statusTrunc := trunc }

/-- The result of REFLECT (R66). -/
def setRflout (v : Half) (s : State) : State := { s with rflout := v }

/-- Loading a configuration tuple (R87): POLY, INIT, XOROUT and CTRL.REV; CTRL.LCHK keeps its value. -/
def loadCfg (c : Cfg) (s : State) : State :=
  { s with poly := c.poly, init := c.init, xorout := c.xorout, ctrlRev := c.rev }

/-- The value of a host read becomes the host's observation (R61); no register of the block changes (R46, R91). -/
def observe (v : Word) (s : State) : State := { s with observed := s.observed ++ [v] }

/-- A byte of the buffer memory takes a value, from outside the block (R38: the block itself never writes). -/
def putByte (a : Nat) (b : Byte) (s : State) : State := { s with mem := Memory.write s.mem a b }

/-- A byte of the buffer memory takes an unconstrained value, a fresh one each time (R49(c), U3, U15). -/
def drawByte (a : Nat) (s : State) : State :=
  { s with mem := Memory.write s.mem a (Config.freeByte s.draws), draws := s.draws + 1 }

/-- Reset (R116): every register takes the value of R34, and nothing else changes. -/
def resetRegisters (s : State) : State :=
  { s with
    poly := 0x1021, init := 0x0000, xorout := 0x0000, ctrlRev := false, ctrlLchk := false, addr := 0, len := 0,
    seed := 0x0000, result := 0x0000, rflin := 0x0000, rflout := 0x0000, statusErr := 0, statusTrunc := false }

end Sys2Proof.Machine
end

