-- ==== Sys2Proof/Machine/Operands.lean ====
section
/-! DEFINITION. Operands: the configuration tuple a command samples (R19), the narrowing of LEN (R74), and the fields a
register-window word carries (R90). -/

namespace Sys2Proof.Machine

/-- The tuple `cfg = (POLY, INIT, XOROUT, CTRL.REV)` as the registers hold it (R19). -/
def sampleCfg (s : State) : Cfg := { poly := s.poly, init := s.init, xorout := s.xorout, rev := s.ctrlRev }

/-- `Narrow(LEN, LCHK)` (R74): the narrowed length and whether it was truncated, or LEN_RANGE. -/
def narrow (lenW : Nat) (len : Word) (lchk : Bool) : Except ErrCode (Nat × Bool) :=
  if lenOverflows lenW len then
    if lchk then .error .lenRange else .ok (len.toNat % 2 ^ lenW, true)
  else .ok (len.toNat, false)

/-- `wdata[15:0]` (R90). -/
def halfField (w : Word) : Half := w.extractLsb' 0 16

/-- `wdata[ADDR_W-1:0]` (R90), zero-extended. -/
def addrField (addrW : Nat) (w : Word) : Word := BitVec.ofNat 32 (w.toNat % 2 ^ addrW)

/-- `zext_32(v)` of a 16-bit register (R91). -/
def halfWord (v : Half) : Word := v.setWidth 32

end Sys2Proof.Machine
end

