-- ==== Sys2Proof/Machine/Control.lean ====
section
/-! DEFINITION. The control commands NOP (R96) and CLRERR (R97). -/

namespace Sys2Proof.Machine

/-- NOP (R96): no state changes. -/
def execNop (s : State) : Host.Outcome State Fault Refusal := .next s

/-- CLRERR (R97): `STATUS.ERR <- 0`; STATUS.TRUNC keeps its value. -/
def execClrerr (s : State) : Host.Outcome State Fault Refusal := .next (clearError s)

end Sys2Proof.Machine
end

