-- ==== Sys2Proof/Machine/Engine.lean ====
section
/-! DEFINITION. The CRC-16 Engine: the two byte functions (R70, R71), the running register over a byte sequence (R72), the
finalization (R73), CalcCore (R75) and the commands CALC (R76) and CALCS (R78). -/

namespace Sys2Proof.Machine

/-- `k` bit steps of the forward path (R70): compare bit 15 of the register with bit 7 of the byte, shift both. -/
def fwdBits (k : Nat) (crc : Half) (b : Byte) (poly : Half) : Half :=
  match k with
  | 0 => crc
  | k + 1 =>
    fwdBits k (if crc.getLsbD 15 != b.getLsbD 7 then (crc <<< 1) ^^^ poly else crc <<< 1) (b <<< 1) poly

/-- `FwdByte(crc, b, poly)` (R70): eight bit steps, most significant bit of the byte first. -/
def fwdByte (crc : Half) (b : Byte) (poly : Half) : Half := fwdBits 8 crc b poly

/-- `k` bit steps of the reflected path (R71), after the byte is in the register. -/
def refBits (k : Nat) (crc : Half) (poly : Half) : Half :=
  match k with
  | 0 => crc
  | k + 1 => refBits k (if crc.getLsbD 0 then (crc >>> 1) ^^^ poly else crc >>> 1) poly

/-- `RefByte(crc, b, poly)` (R71): XOR the byte into the low 8 bits, then eight bit steps. -/
def refByte (crc : Half) (b : Byte) (poly : Half) : Half := refBits 8 (crc ^^^ b.setWidth 16) poly

/-- `Step(rev, poly)(crc, b)` (R72). -/
def stepByte (rev : Bool) (poly : Half) (crc : Half) (b : Byte) : Half :=
  if rev then refByte crc b poly else fwdByte crc b poly

/-- `Process(rev, poly, start, bytes)` (R72). -/
def process (rev : Bool) (poly : Half) (start : Half) (bytes : List Byte) : Half :=
  bytes.foldl (stepByte rev poly) start

/-- `Final(crc, xorout)` (R73). -/
def final (crc xorout : Half) : Half := crc ^^^ xorout

/-- The byte loop of R75: `count` bytes from address `a` on, ascending (R42), each read and then stepped. -/
def calcLoop (rev : Bool) (poly : Half) (s : State) (count a : Nat) (crc : Half) : Except ErrCode Half :=
  match count with
  | 0 => .ok crc
  | k + 1 =>
    match memRead s a with
    | .error e => .error e
    | .ok b => calcLoop rev poly s k (a + 1) (stepByte rev poly crc b)

/-- The checks of R75 that come between the narrowing and the loop: NULL_BUF, then BUS_FAULT for a buffer that wraps. -/
def checkBuffer (s : State) (n : Nat) : Option ErrCode :=
  if n ≠ 0 ∧ s.addr = 0 then some .nullBuf
  else if 2 ^ s.params.addrW < s.addr.toNat + n then some .busFault
  else none

/-- `CalcCore(start)` (R75) up to its register writes: the checksum and the truncation flag, or the first error found, in
R105's order. -/
def calcCore (start : Half) (s : State) : Except ErrCode (Half × Bool) :=
  match narrow s.params.lenW s.len s.ctrlLchk with
  | .error e => .error e
  | .ok (n, trunc) =>
    match checkBuffer s n with
    | some e => .error e
    | none =>
      match calcLoop (sampleCfg s).rev (sampleCfg s).poly s n s.addr.toNat start with
      | .error e => .error e
      | .ok crc => .ok (final crc (sampleCfg s).xorout, trunc)

/-- The register writes of CalcCore (R75): RESULT and STATUS.TRUNC, or the recorded error and nothing else (R104). -/
def runCalc (start : Half) (s : State) : Host.Outcome State Fault Refusal :=
  match calcCore start s with
  | .error e => .next (raiseError e s)
  | .ok (r, trunc) => .next (setResult r trunc s)

/-- CALC (R76): `CalcCore(INIT)`. -/
def execCalc (s : State) : Host.Outcome State Fault Refusal := runCalc s.init s

/-- CALCS (R78): `CalcCore(SEED)`. -/
def execCalcs (s : State) : Host.Outcome State Fault Refusal := runCalc s.seed s

end Sys2Proof.Machine
end

