-- ==== Sys2Proof/Machine/Reflect.lean ====
section
/-! DEFINITION. The Bit-Reflector: the function (R63, R64) and the command REFLECT (R66). -/

namespace Sys2Proof.Machine

/-- The loop of R64 for at most `fuel` iterations: `check` descends, `set` (17 bits) ascends, `ret` collects. -/
def reflectLoop (v : Half) (fuel : Nat) (check : Half) (set : BitVec 17) (ret : Half) : Half :=
  match fuel with
  | 0 => ret
  | k + 1 =>
    if check = 0 then ret
    else reflectLoop v k (check >>> 1) (set <<< 1) (if v &&& check ≠ 0 then ret ||| set.setWidth 16 else ret)

/-- `Reflect(v, Bits)` (R64). The check mask starts at bit `Bits-1 <= 15`, so 16 iterations always suffice. -/
def reflect (v : Half) (bits : Nat) : Half := reflectLoop v 16 ((1 : Half) <<< (bits - 1)) 1 0

/-- REFLECT (R66): `RFLOUT <- Reflect(RFLIN, Bits)`. A width outside 1..16 cannot be encoded and is refused (U6). -/
def execReflect (bits : Nat) (s : State) : Host.Outcome State Fault Refusal :=
  if 1 ≤ bits ∧ bits ≤ 16 then .next (setRflout (reflect s.rflin bits) s) else .refused (.reflectWidth bits)

end Sys2Proof.Machine
end

