-- ==== Sys2Proof/Machine/Variants.lean ====
section
/-! DEFINITION. The preset table (R86) and the command PRESET (R87). -/

namespace Sys2Proof.Machine

/-- Row P of the preset table (R86). -/
def presetRow : Preset → Cfg
  | .xmodem     => { poly := 0x1021, init := 0x0000, xorout := 0x0000, rev := false }
  | .kermit     => { poly := 0x8408, init := 0x0000, xorout := 0x0000, rev := true }
  | .ccittFalse => { poly := 0x1021, init := 0xFFFF, xorout := 0x0000, rev := false }
  | .usb        => { poly := 0xA001, init := 0xFFFF, xorout := 0xFFFF, rev := true }

/-- PRESET (R87): loads row P; CTRL.LCHK and every other register keep their values. -/
def execPreset (p : Preset) (s : State) : Host.Outcome State Fault Refusal := .next (loadCfg (presetRow p) s)

end Sys2Proof.Machine
end

