-- ==== Sys2Proof/Machine/Dispatch.lean ====
section
/-! DEFINITION. The command dispatch (R94): one arm per command, each one call of its meaning. -/

namespace Sys2Proof.Machine

def exec (i : Instr) (s : State) : Host.Outcome State Fault Refusal :=
  match i with
  | .nop => Sys2Proof.Machine.execNop s
  | .calcInit => Sys2Proof.Machine.execCalc s
  | .calcSeed => Sys2Proof.Machine.execCalcs s
  | .reflect bits => Sys2Proof.Machine.execReflect bits s
  | .preset p => Sys2Proof.Machine.execPreset p s
  | .clrerr => Sys2Proof.Machine.execClrerr s

end Sys2Proof.Machine
end

