-- ==== Sys2Proof/Machine/Window.lean ====
section
/-! DEFINITION. The register window: the registers by offset (R13, R59), a write of a register that issues no command
(R90), a read (R91), and which bus accesses reach the window (R13, R33, R44). -/

namespace Sys2Proof.Machine

/-- The registers of R59's table, the four reserved words named as R61 names them. -/
inductive Reg where
  | poly
  | init
  | xorout
  | ctrl
  | addr
  | len
  | seed
  | result
  | rflin
  | rflout
  | cmd
  | status
  | rsv0
  | rsv1
  | rsv2
  | rsv3
deriving DecidableEq, Repr

/-- The byte offset of a register (R13, R59). -/
def regOffset : Reg → Nat
  | .poly => 0x00
  | .init => 0x04
  | .xorout => 0x08
  | .ctrl => 0x0C
  | .addr => 0x10
  | .len => 0x14
  | .seed => 0x18
  | .result => 0x1C
  | .rflin => 0x20
  | .rflout => 0x24
  | .cmd => 0x28
  | .status => 0x2C
  | .rsv0 => 0x30
  | .rsv1 => 0x34
  | .rsv2 => 0x38
  | .rsv3 => 0x3C

/-- The register that offset[5:2] selects (R59). -/
def regOfIndex : Nat → Option Reg
  | 0 => some .poly
  | 1 => some .init
  | 2 => some .xorout
  | 3 => some .ctrl
  | 4 => some .addr
  | 5 => some .len
  | 6 => some .seed
  | 7 => some .result
  | 8 => some .rflin
  | 9 => some .rflout
  | 10 => some .cmd
  | 11 => some .status
  | 12 => some .rsv0
  | 13 => some .rsv1
  | 14 => some .rsv2
  | 15 => some .rsv3
  | _ => none

/-- The register at a byte offset: none where the offset is no multiple of 4 (R44) or lies past the window. -/
def regAt (off : Nat) : Option Reg := if off % 4 = 0 then regOfIndex (off / 4) else none

/-- What `WR(off, wdata)` does to the register itself (R90). A RW register takes its fields and drops the rest; read-only
and reserved words ignore the write (R93, R32); CMD holds no state (R26), and the command it issues is `execute`'s. -/
def writeReg (r : Reg) (w : Word) (s : State) : State :=
  match r with
  | .poly => { s with poly := halfField w }
  | .init => { s with init := halfField w }
  | .xorout => { s with xorout := halfField w }
  | .ctrl => { s with ctrlRev := w.getLsbD 0, ctrlLchk := w.getLsbD 1 }
  | .addr => { s with addr := addrField s.params.addrW w }
  | .len => { s with len := w }
  | .seed => { s with seed := halfField w }
  | .rflin => { s with rflin := halfField w }
  | .result => s
  | .rflout => s
  | .cmd => s
  | .status => s
  | .rsv0 => s
  | .rsv1 => s
  | .rsv2 => s
  | .rsv3 => s

/-- The value `RD(off)` returns (R91). -/
def readReg (r : Reg) (s : State) : Word :=
  match r with
  | .poly => halfWord s.poly
  | .init => halfWord s.init
  | .xorout => halfWord s.xorout
  | .ctrl => ctrlWord s.ctrlRev s.ctrlLchk
  | .addr => s.addr
  | .len => s.len
  | .seed => halfWord s.seed
  | .result => halfWord s.result
  | .rflin => halfWord s.rflin
  | .rflout => halfWord s.rflout
  | .cmd => 0
  | .status => statusWord s.statusErr s.statusTrunc
  | .rsv0 => 0
  | .rsv1 => 0
  | .rsv2 => 0
  | .rsv3 => 0

/-- An access of `bytes` bytes at bus address `a` neither begins in the 64-byte window at `base` nor has a byte in it (R13).
Such an access is not this block's: another instance's, or no block's (R33; log entry 7). -/
def outsideWindow (base a bytes : Nat) : Bool :=
  decide (base + 64 ≤ a) || (decide (a < base) && decide (a + bytes ≤ base))

/-- The register a bus access that touches the window reaches: it must be 32 bits wide at an offset that is a multiple of
4 (R44). -/
def windowReg (base a bytes : Nat) : Option Reg :=
  if bytes = 4 ∧ base ≤ a then regAt (a - base) else none

end Sys2Proof.Machine
end

