-- ==== Sys2Proof/Machine/Execute.lean ====
section
/-! DEFINITION. What one outside event does: `Execute(w)` for a word written to CMD (R94), the host write (R90) and read
(R91), a host store to the buffer memory (R49(b)), a racing byte (R49(c)), reset (R116). -/

namespace Sys2Proof.Machine

/-- `Execute(w)` (R94): the command the word encodes, or ILLEGAL_CMD (R56). -/
def execute (w : Word) (s : State) : Host.Outcome State Fault Refusal :=
  match decode w with
  | .ok i => exec i s
  | .error _ => .next (raiseError .illegalCmd s)

/-- `WR(off, wdata)` (R90) on the register the offset selects. -/
def hostWrite (r : Reg) (w : Word) (s : State) : Host.Outcome State Fault Refusal :=
  if r = .cmd then execute w s else .next (writeReg r w s)

/-- `RD(off)` (R91): the value becomes the host's observation. -/
def hostRead (r : Reg) (s : State) : Host.Outcome State Fault Refusal := .next (observe (readReg r s) s)

/-- A host write on the bus: nothing outside the window (R33), refused where R44 gives it no step. -/
def busWrite (a bytes : Nat) (w : Word) (s : State) : Host.Outcome State Fault Refusal :=
  if outsideWindow s.params.crcBase a bytes then .next s
  else
    match windowReg s.params.crcBase a bytes with
    | some r => hostWrite r w s
    | none => .refused .windowAccess

/-- A host read on the bus: nothing of this block's outside the window (R33), refused where R44 gives it no step. -/
def busRead (a bytes : Nat) (s : State) : Host.Outcome State Fault Refusal :=
  if outsideWindow s.params.crcBase a bytes then .next s
  else
    match windowReg s.params.crcBase a bytes with
    | some r => hostRead r s
    | none => .refused .windowAccess

/-- A change of the buffer byte at `a` from outside: the address must be one of the ADDR_W-bit space (R37). -/
def onBufferByte (a : Nat) (s s' : State) : Host.Outcome State Fault Refusal :=
  if a < 2 ^ s.params.addrW then .next s' else .fault (.noBufferAddress a)

/-- One outside event, performed completely and atomically (R10, R45). -/
def perform (e : HostEvent) (s : State) : Host.Outcome State Fault Refusal :=
  match e with
  | .write a bytes w => busWrite a bytes w s
  | .read a bytes => busRead a bytes s
  | .store a b => onBufferByte a s (putByte a b s)
  | .race a => onBufferByte a s (drawByte a s)
  | .reset => .next (resetRegisters s)

/-- The host write that issues the command word `w` (R26). -/
def cmdWrite (crcBase : Nat) (w : Word) : HostEvent := .write (crcBase + regOffset .cmd) 4 w

end Sys2Proof.Machine
end

