-- ==== Sys2Proof/Machine/Step.lean ====
section
/-! DEFINITION. The step: the oldest pending outside event is performed, in the order of issue (R10, R49(a)); with none
pending the block does nothing (R118). -/

namespace Sys2Proof.Machine

/-- One step. The block has no program counter and fetches nothing (R14): its program is the host's accesses. -/
def step (s : State) : Host.Outcome State Fault Refusal :=
  match s.pending with
  | [] => .next s
  | e :: rest => perform e { s with pending := rest }

/-- The state in which the next access is the CMD write of this command word (its bits at and above `nbits` zero): the
place a command comes from (R26; log entry 4). -/
def State.withFetchWord (s : State) (nbits w : Nat) : State :=
  { s with pending := cmdWrite s.params.crcBase (BitVec.ofNat 32 (w % 2 ^ nbits)) :: s.pending }

end Sys2Proof.Machine
end

