-- ==== Sys2Proof/Machine/HostProgram.lean ====
section
/-! DEFINITION. Host programs: the access triple (R59), the lines of a host program (R61), the pseudo-instructions and
their expansions (R62), and a program placed in the queue of pending accesses. -/

namespace Sys2Proof.Machine

/-- The direction of a host access (R59). -/
inductive Dir where
  | read
  | write
deriving DecidableEq, Repr

/-- A host access: the triple (direction, offset, data) of R59. For a read, `data` plays no part. -/
structure Access where
  dir  : Dir
  off  : Nat
  data : Word
deriving DecidableEq, Repr

/-- `wr <REG>, <value>` (R61). -/
def wr (r : Reg) (v : Word) : Access := { dir := .write, off := regOffset r, data := v }

/-- `rd <REG>` (R61). -/
def rd (r : Reg) : Access := { dir := .read, off := regOffset r, data := 0 }

/-- A line of a host program: an access (R61) or a pseudo-instruction (R62). -/
inductive HostLine where
  /-- `wr <REG>, <value>`. -/
  | wr (r : Reg) (v : Word)
  /-- `rd <REG>`, or `rd <REG> -> <value>`: the annotation is a comment on what the rules give. -/
  | rd (r : Reg) (annotation : Option Word)
  | crcNop
  | crcCalc
  | crcCalcs
  /-- `crc.reflect <bits>`. R62 gives it for 1 to 16; `HostLine.expand` refuses every other number. -/
  | crcReflect (bits : Nat)
  | crcPreset (p : Preset)
  | crcClrerr
  | crcCfg (poly init xorout ctrl : Word)
  | crcBuf (addr len : Word)
  | crcReflect16 (v : Word)
deriving DecidableEq, Repr

/-- Why a line stands for no accesses. -/
inductive HostLineError where
  /-- `crc.reflect` with a width outside R62's "(1 to 16)", which no command word encodes (U6 `refuse`; log entry 11). -/
  | reflectWidth (bits : Nat)
deriving DecidableEq, Repr

/-- The word of `crc.reflect <bits>` (R62): `0x00000003 | ((<bits>-1) << 8)`. -/
def reflectWord (bits : Nat) : Word := 0x00000003 ||| (BitVec.ofNat 32 (bits - 1) <<< 8)

/-- The word of `crc.preset <P>` (R62): `0x00000004 | (<P> << 8)`. -/
def presetWord (p : Preset) : Word := 0x00000004 ||| ((presetIndex p).setWidth 32 <<< 8)

/-- The accesses a line stands for, in order (R61, R62), or the reason why there are none. -/
def HostLine.expand : HostLine → Except HostLineError (List Access)
  | .wr r v => .ok [Sys2Proof.Machine.wr r v]
  | .rd r _ => .ok [Sys2Proof.Machine.rd r]
  | .crcNop => .ok [Sys2Proof.Machine.wr .cmd 0x00000000]
  | .crcCalc => .ok [Sys2Proof.Machine.wr .cmd 0x00000001]
  | .crcCalcs => .ok [Sys2Proof.Machine.wr .cmd 0x00000002]
  | .crcReflect bits =>
    if 1 ≤ bits ∧ bits ≤ 16 then .ok [Sys2Proof.Machine.wr .cmd (reflectWord bits)] else .error (.reflectWidth bits)
  | .crcPreset p => .ok [Sys2Proof.Machine.wr .cmd (presetWord p)]
  | .crcClrerr => .ok [Sys2Proof.Machine.wr .cmd 0x00000005]
  | .crcCfg poly init xorout ctrl =>
    .ok [Sys2Proof.Machine.wr .poly poly, Sys2Proof.Machine.wr .init init, Sys2Proof.Machine.wr .xorout xorout,
      Sys2Proof.Machine.wr .ctrl ctrl]
  | .crcBuf addr len => .ok [Sys2Proof.Machine.wr .addr addr, Sys2Proof.Machine.wr .len len]
  | .crcReflect16 v =>
    .ok [Sys2Proof.Machine.wr .rflin v, Sys2Proof.Machine.wr .cmd (reflectWord 16), Sys2Proof.Machine.rd .rflout]

/-- The access on the bus, at `CRC_BASE` plus its offset, 32 bits wide (R13, R44). -/
def Access.event (crcBase : Nat) (x : Access) : HostEvent :=
  match x.dir with
  | .write => .write (crcBase + x.off) 4 x.data
  | .read => .read (crcBase + x.off) 4

/-- The events of a host program, in its order (R49(a), R61), or the reason why its first faulty line stands for none. -/
def programEvents (crcBase : Nat) : List HostLine → Except HostLineError (List HostEvent)
  | [] => .ok []
  | line :: lines =>
    match line.expand with
    | .error e => .error e
    | .ok accesses =>
      match programEvents crcBase lines with
      | .error e => .error e
      | .ok events => .ok (accesses.map (Access.event crcBase) ++ events)

/-- The state in which the host is about to run these lines, if every one of them is a line of R61 or R62. -/
def State.withProgram (s : State) (lines : List HostLine) : Except HostLineError State :=
  match programEvents s.params.crcBase lines with
  | .error e => .error e
  | .ok events => .ok { s with pending := events ++ s.pending }

end Sys2Proof.Machine
end

