-- ==== Sys2Proof/Safety.lean ====
section
/-! DEFINITION. The terms claims use: the invariant of the machine, the buffer of a command, when a CALC or CALCS is
accepted, and when a step is safe. -/

namespace Sys2Proof.Machine

/-- The invariant every step keeps: the parameters are legal (R4), memory is canonical and lists only addresses of the
ADDR_W-bit space (R37), ADDR's bits above ADDR_W are zero (R20), and STATUS.ERR holds one of the codes 0 to 4 (R27). -/
abbrev State.Inv (s : State) : Prop :=
  s.params.wf ∧ Memory.wf s.mem ∧ (∀ c ∈ s.mem, c.1 < 2 ^ s.params.addrW) ∧ s.addr.toNat < 2 ^ s.params.addrW ∧
    s.statusErr.toNat ≤ 4

/-- The narrowed length `LEN mod 2^LEN_W` (R74). -/
def State.narrowedLen (s : State) : Nat := s.len.toNat % 2 ^ s.params.lenW

/-- The bytes `Mem(ADDR + i)` for `i < n`, ascending (R39, R42). -/
def State.bufferBytes (s : State) (n : Nat) : List Byte :=
  (List.range n).map (fun i => Memory.read s.mem (s.addr.toNat + i))

/-- None of the error conditions of R101 holds for a CALC or CALCS issued in this state. -/
abbrev State.CalcAccepted (s : State) : Prop :=
  (s.ctrlLchk = true → s.len.toNat < 2 ^ s.params.lenW) ∧ (s.narrowedLen ≠ 0 → s.addr ≠ 0) ∧
    s.addr.toNat + s.narrowedLen ≤ 2 ^ s.params.addrW ∧
    ∀ i < s.narrowedLen, readable s.params (s.addr.toNat + i) = true

/-- ADDR and LEN name a readable, untruncated buffer that holds exactly `bytes` (R39, R79). -/
abbrev State.HoldsBuffer (s : State) (bytes : List Byte) : Prop :=
  s.len.toNat = bytes.length ∧ bytes.length < 2 ^ s.params.lenW ∧ s.CalcAccepted ∧ s.bufferBytes bytes.length = bytes

/-- A step is safe when the machine goes on: it neither faults nor is refused. -/
def SafeStep (s : State) : Prop := ∃ t, step s = .next t

end Sys2Proof.Machine
end

