-- ==== Sys2Proof/Certificates/Slice0/Obligations.lean ====
section
/-! DEFINITION. The statements for the provers. Each docstring names the rules of spec/ that its statement formalises. -/

open Sys2Proof Sys2Proof.Machine

/-! ## Encoding -/

/-- R58's worked encodings: ten legal words and four illegal ones. -/
def Obligations.WorkedCommandWordsDecode : Prop :=
  decode 0x00000001 = .ok .calcInit ∧ decode 0x00000002 = .ok .calcSeed ∧
    decode 0x00000F03 = .ok (.reflect 16) ∧ decode 0x00000703 = .ok (.reflect 8) ∧ decode 0x00000003 = .ok (.reflect 1) ∧
    decode 0x00000004 = .ok (.preset .xmodem) ∧ decode 0x00000104 = .ok (.preset .kermit) ∧
    decode 0x00000204 = .ok (.preset .ccittFalse) ∧ decode 0x00000304 = .ok (.preset .usb) ∧
    decode 0x00000005 = .ok .clrerr ∧
    ∀ w ∈ ([0x00000006, 0x00000101, 0x00000404, 0x00001F03] : List Word), ∃ e, decode w = .error e

/-- R51, R52, R54: a word decodes to an instruction exactly when that instruction is well-formed and the word is its
encoding. -/
def Obligations.DecodeExactlyInvertsEncode : Prop :=
  ∀ (w : Word) (i : Instr), decode w = .ok i ↔ i.WellFormed ∧ encode i = w

/-- R52: at most one row of the decode table selects a word, and a word that no row selects is illegal. -/
def Obligations.OneRowAtMostSelectsAWord : Prop :=
  (∀ w : Word, opRows.Pairwise (fun r r' => ¬(r.selects w = true ∧ r'.selects w = true))) ∧
    ∀ w : Word, (∃ e, decode w = .error e) ↔ ∀ r ∈ opRows, w &&& r.mask ≠ r.pattern

/-- R57 (which the spec marks as derived): the legal words are 1 for NOP, 1 for CALC, 1 for CALCS, 16 for REFLECT, 4 for
PRESET and 1 for CLRERR, 24 different words in all. -/
def Obligations.ExactlyTwentyFourWordsAreLegal : Prop :=
  let words : List Word :=
    [0x00000000] ++ [0x00000001] ++ [0x00000002] ++ (List.range 16).map (fun b => BitVec.ofNat 32 (256 * b + 3)) ++
      (List.range 4).map (fun p => BitVec.ofNat 32 (256 * p + 4)) ++ [0x00000005]
  words.length = 24 ∧ words.Nodup ∧ ∀ w : Word, w ∈ words ↔ ∃ i, decode w = .ok i

/-- R55, R56: a word is illegal exactly when its OP is 0x06 to 0xFF, its RSV is not zero, or its ARG has a bit set that R54
says must be zero; an illegal word written to CMD records ILLEGAL_CMD (code 1) if no error is recorded, and has no other
effect. -/
def Obligations.IllegalWordOnlyRecordsIllegalCmd : Prop :=
  (∀ w : Word, (∃ e, decode w = .error e) ↔
      0x06 ≤ (w.extractLsb' 0 8).toNat ∨ w.extractLsb' 12 20 ≠ 0 ∨
        (w.extractLsb' 0 8 ∈ ([0x00, 0x01, 0x02, 0x05] : List (BitVec 8)) ∧ w.extractLsb' 8 4 ≠ 0) ∨
        (w.extractLsb' 0 8 = 0x04 ∧ w.extractLsb' 10 2 ≠ 0)) ∧
    ∀ (w : Word) (e : DecodeError) (s : State), decode w = .error e →
      perform (.write (s.params.crcBase + 0x28) 4 w) s =
        .next { s with statusErr := if s.statusErr = 0 then 1 else s.statusErr }

/-- R62: the expansions of the pseudo-instructions, access by access; `crc.reflect` at a number outside 1 to 16 has none
(U6; log entry 11). -/
def Obligations.PseudoInstructionsExpand : Prop :=
  HostLine.crcNop.expand = .ok [⟨.write, 0x28, 0x00000000⟩] ∧ HostLine.crcCalc.expand = .ok [⟨.write, 0x28, 0x00000001⟩] ∧
    HostLine.crcCalcs.expand = .ok [⟨.write, 0x28, 0x00000002⟩] ∧ HostLine.crcClrerr.expand = .ok [⟨.write, 0x28, 0x00000005⟩] ∧
    (∀ bits, 1 ≤ bits → bits ≤ 16 → (HostLine.crcReflect bits).expand =
      .ok [⟨.write, 0x28, 0x00000003 ||| (BitVec.ofNat 32 (bits - 1) <<< 8)⟩]) ∧
    (∀ bits, bits = 0 ∨ 16 < bits → (HostLine.crcReflect bits).expand = .error (.reflectWidth bits)) ∧
    (HostLine.crcPreset .xmodem).expand = .ok [⟨.write, 0x28, 0x00000004⟩] ∧
    (HostLine.crcPreset .kermit).expand = .ok [⟨.write, 0x28, 0x00000104⟩] ∧
    (HostLine.crcPreset .ccittFalse).expand = .ok [⟨.write, 0x28, 0x00000204⟩] ∧
    (HostLine.crcPreset .usb).expand = .ok [⟨.write, 0x28, 0x00000304⟩] ∧
    (∀ p i x c : Word, (HostLine.crcCfg p i x c).expand =
      .ok [⟨.write, 0x00, p⟩, ⟨.write, 0x04, i⟩, ⟨.write, 0x08, x⟩, ⟨.write, 0x0C, c⟩]) ∧
    (∀ a l : Word, (HostLine.crcBuf a l).expand = .ok [⟨.write, 0x10, a⟩, ⟨.write, 0x14, l⟩]) ∧
    ∀ v : Word, (HostLine.crcReflect16 v).expand = .ok [⟨.write, 0x20, v⟩, ⟨.write, 0x28, 0x00000F03⟩, ⟨.read, 0x24, 0⟩]

/-! ## The step -/

/-- R94: a step whose oldest event is the CMD write of a word that decodes to `i` is `exec i` on the state without that
event; `withFetchWord` places exactly that write. -/
def Obligations.StepRunsTheDecodedCommand : Prop :=
  (∀ (s : State) (w : Word) (i : Instr) (rest : List HostEvent),
      s.pending = .write (s.params.crcBase + 0x28) 4 w :: rest → decode w = .ok i →
      step s = exec i { s with pending := rest }) ∧
    ∀ (s : State) (i : Instr), i.WellFormed → step (s.withFetchWord 32 (encode i).toNat) = exec i s

/-- R10, R49(a), R118: a step performs the oldest pending event on the state without it, and with none pending nothing
changes. That an idle step is a next state is the model's choice (log entry 3). -/
def Obligations.StepPerformsTheOldestEvent : Prop :=
  (∀ (s : State) (e : HostEvent) (rest : List HostEvent), s.pending = e :: rest →
      step s = perform e { s with pending := rest }) ∧
    ∀ s : State, s.pending = [] → step s = .next s

/-- The model stops only where an event from outside has no step: an access that begins in the window or has a byte in it
and is not 32 bits wide at an offset that is a multiple of 4 (R44), or a buffer address outside the ADDR_W-bit space (R37; the model's own fault, log entry 8). -/
def Obligations.StepStopsOnlyOnABadAccess : Prop :=
  ∀ s : State, SafeStep s ∨
    (∃ a n w rest, (s.pending = .write a n w :: rest ∨ s.pending = .read a n :: rest) ∧
      a < s.params.crcBase + 64 ∧ (s.params.crcBase ≤ a ∨ s.params.crcBase < a + n) ∧
      ¬(n = 4 ∧ s.params.crcBase ≤ a ∧ (a - s.params.crcBase) % 4 = 0) ∧
      step s = .refused .windowAccess) ∨
    ∃ a b rest, (s.pending = .store a b :: rest ∨ s.pending = .race a :: rest) ∧ 2 ^ s.params.addrW ≤ a ∧
      step s = .fault (.noBufferAddress a)

/-- 93_implementation_defined.md ("every command on every register state gives one defined next state") and R127: every
command, and every word written to CMD, answers a next state. -/
def Obligations.EveryCommandAnswersANextState : Prop :=
  (∀ (i : Instr) (s : State), i.WellFormed → ∃ t, exec i s = .next t) ∧ ∀ (w : Word) (s : State), ∃ t, execute w s = .next t

/-! ## NOP, CLRERR, PRESET, REFLECT -/

/-- R96: NOP is the word 0 exactly, a word with OP 0 and any other bit set is illegal, and NOP changes nothing. -/
def Obligations.NopChangesNothing : Prop :=
  (∀ w : Word, decode w = .ok .nop ↔ w = 0x00000000) ∧
    (∀ w : Word, w.extractLsb' 0 8 = 0x00 → w ≠ 0 → ∃ e, decode w = .error e) ∧ ∀ s : State, exec .nop s = .next s

/-- R97: CLRERR is the word 5 exactly; it clears STATUS.ERR and changes nothing else, so with STATUS.ERR = 0 nothing at
all; the next error is stored; STATUS 0x103 becomes 0x100. -/
def Obligations.ClrerrClearsTheRecordedError : Prop :=
  (∀ w : Word, decode w = .ok .clrerr ↔ w = 0x00000005) ∧
    (∀ s : State, exec .clrerr s = .next { s with statusErr := 0 }) ∧
    (∀ s : State, s.statusErr = 0 → exec .clrerr s = .next s) ∧
    (∀ (s t : State) (e : ErrCode), exec .clrerr s = .next t → (raiseError e t).statusErr = e.code) ∧
    ∀ s : State, readReg .status s = 0x00000103 → ∃ t, exec .clrerr s = .next t ∧ readReg .status t = 0x00000100

/-- R86, R87: each PRESET word, the four registers its row loads, everything else unchanged; a word with OP 4 and ARG[3:2]
not zero is illegal; a row already loaded changes nothing; PRESET 0 restores the reset configuration. -/
def Obligations.PresetLoadsItsRow : Prop :=
  (∀ w : Word, decode w = .ok (.preset .xmodem) ↔ w = 0x00000004) ∧
    (∀ w : Word, decode w = .ok (.preset .kermit) ↔ w = 0x00000104) ∧
    (∀ w : Word, decode w = .ok (.preset .ccittFalse) ↔ w = 0x00000204) ∧
    (∀ w : Word, decode w = .ok (.preset .usb) ↔ w = 0x00000304) ∧
    (∀ w : Word, w.extractLsb' 0 8 = 0x04 → w.extractLsb' 10 2 ≠ 0 → ∃ e, decode w = .error e) ∧
    (∀ s : State, exec (.preset .xmodem) s =
      .next { s with poly := 0x1021, init := 0x0000, xorout := 0x0000, ctrlRev := false }) ∧
    (∀ s : State, exec (.preset .kermit) s =
      .next { s with poly := 0x8408, init := 0x0000, xorout := 0x0000, ctrlRev := true }) ∧
    (∀ s : State, exec (.preset .ccittFalse) s =
      .next { s with poly := 0x1021, init := 0xFFFF, xorout := 0x0000, ctrlRev := false }) ∧
    (∀ s : State, exec (.preset .usb) s =
      .next { s with poly := 0xA001, init := 0xFFFF, xorout := 0xFFFF, ctrlRev := true }) ∧
    (∀ (s : State) (p : Preset), sampleCfg s = presetRow p → exec (.preset p) s = .next s) ∧
    ∀ s t : State, exec (.preset .xmodem) s = .next t → sampleCfg t = sampleCfg State.reset

/-- R63, R66: REFLECT at every width 1..16 writes RFLOUT only, bit j of it being bit Bits-1-j of RFLIN for j < Bits and 0
above; its words are those with OP 3, ARG = Bits-1 and RSV = 0, and with another RSV the word is illegal; RFLIN = 0x1021
and the word 0xF03 give RFLOUT = 0x8408. -/
def Obligations.ReflectReversesTheLowBits : Prop :=
  (∀ (w : Word) (bits : Nat), decode w = .ok (.reflect bits) ↔
      1 ≤ bits ∧ bits ≤ 16 ∧ w = 0x00000003 ||| (BitVec.ofNat 32 (bits - 1) <<< 8)) ∧
    (∀ w : Word, w.extractLsb' 0 8 = 0x03 → w.extractLsb' 12 20 ≠ 0 → ∃ e, decode w = .error e) ∧
    (∀ (s : State) (bits : Nat), 1 ≤ bits → bits ≤ 16 →
      ∃ v : Half, exec (.reflect bits) s = .next { s with rflout := v } ∧
        ∀ j < 16, v.getLsbD j = (decide (j < bits) && s.rflin.getLsbD (bits - 1 - j))) ∧
    ∀ s : State, s.rflin = 0x1021 → execute 0x00000F03 s = .next { s with rflout := 0x8408 }

/-- U6 (derived): a width outside 1..16, which no word encodes, is refused by name. -/
def Obligations.ReflectRefusesWidthsOutsideItsRange : Prop :=
  ∀ (s : State) (bits : Nat), bits = 0 ∨ 16 < bits → exec (.reflect bits) s = .refused (.reflectWidth bits)

/-- R64: the check mask is nonzero before iteration k exactly for k < Bits, and the loop runs exactly Bits iterations:
allowed more, it gives Reflect's value; stopped after fewer, it has not yet moved the low bit of the value 1. -/
def Obligations.ReflectRunsExactlyBitsIterations : Prop :=
  ∀ (v : Half) (bits : Nat), 1 ≤ bits → bits ≤ 16 →
    (∀ k, ((1 : Half) <<< (bits - 1)) >>> k ≠ 0 ↔ k < bits) ∧
      (∀ fuel, bits ≤ fuel → reflectLoop v fuel ((1 : Half) <<< (bits - 1)) 1 0 = reflect v bits) ∧
      ∀ k < bits, reflectLoop 1 k ((1 : Half) <<< (bits - 1)) 1 0 ≠ reflect 1 bits

/-- R67: reflecting twice keeps the low Bits bits; 0 reflects to 0; the top bit alone and the low bit alone are exchanged;
0xFFFF reflects to 0xFFFF at width 16. -/
def Obligations.ReflectIsSelfInverse : Prop :=
  (∀ (v : Half) (bits : Nat), 1 ≤ bits → bits ≤ 16 →
      reflect (reflect v bits) bits = v &&& BitVec.ofNat 16 (2 ^ bits - 1) ∧ reflect 0 bits = 0 ∧
        reflect (BitVec.ofNat 16 (2 ^ (bits - 1))) bits = 1 ∧ reflect 1 bits = BitVec.ofNat 16 (2 ^ (bits - 1))) ∧
    (∀ v : Half, reflect (reflect v 16) 16 = v) ∧ reflect 0xFFFF 16 = 0xFFFF

/-- R88: the reflected presets' polynomials are the reflections of 0x1021 and 0x8005. -/
def Obligations.ReflectedPresetsUseReversedPolynomials : Prop :=
  (presetRow .kermit).poly = reflect 0x1021 16 ∧ (presetRow .xmodem).poly = 0x1021 ∧
    (presetRow .ccittFalse).poly = 0x1021 ∧ (presetRow .usb).poly = reflect 0x8005 16 ∧
    (presetRow .kermit).poly = 0x8408 ∧ (presetRow .usb).poly = 0xA001

/-! ## The engine's functions -/

/-- R70: FwdByte is eight times the bit step "if crc[15] differs from b[7], shift and XOR, else shift; then shift the
byte". -/
def Obligations.FwdByteIsEightBitSteps : Prop :=
  ∀ (crc : Half) (b : Byte) (poly : Half),
    fwdByte crc b poly =
      ((fun x : Half × Byte =>
        (if x.1.getLsbD 15 ≠ x.2.getLsbD 7 then (x.1 <<< 1) ^^^ poly else x.1 <<< 1, x.2 <<< 1))^[8] (crc, b)).1

/-- R71: RefByte XORs the byte into the low 8 bits, then is eight times the bit step "if crc[0] is set, shift right and
XOR, else shift right". -/
def Obligations.RefByteIsEightBitSteps : Prop :=
  ∀ (crc : Half) (b : Byte) (poly : Half),
    refByte crc b poly =
      (fun x : Half => if x.getLsbD 0 = true then (x >>> 1) ^^^ poly else x >>> 1)^[8] (crc ^^^ b.setWidth 16)

/-- R82: the equivalent forward form, the byte XORed into the high 8 bits first, for every register value, byte and
polynomial. -/
def Obligations.FwdByteEqualsTheAlternativeForm : Prop :=
  ∀ (crc : Half) (b : Byte) (poly : Half),
    fwdByte crc b poly =
      (fun x : Half => if x.getLsbD 15 = true then (x <<< 1) ^^^ poly else x <<< 1)^[8] (crc ^^^ (b.setWidth 16 <<< 8))

/-- R83: the duality of the two byte functions under reflection. -/
def Obligations.ByteFunctionsAreDualUnderReflection : Prop :=
  ∀ (crc : Half) (b : Byte) (p : Half),
    refByte crc b (reflect p 16) =
      reflect (fwdByte (reflect crc 16) ((reflect (b.setWidth 16) 8).setWidth 8) p) 16

/-- R72, R83 (derived): the duality for whole buffers. The reflected path over the bytes is the mirror of the forward path
over the mirrored bytes. -/
def Obligations.ReflectedPathMirrorsTheForwardPath : Prop :=
  ∀ (bytes : List Byte) (start p : Half),
    process true (reflect p 16) (reflect start 16) bytes =
      reflect (process false p start (bytes.map (fun b => (reflect (b.setWidth 16) 8).setWidth 8))) 16

/-- R72, R73 and the glossary's "used for error detection" (derived): with a polynomial whose low bit is set in the
forward path, or whose top bit is set in the reflected path, as in all four presets, changing one byte of a buffer always
changes the checksum. -/
def Obligations.ChecksumDetectsAnySingleByteChange : Prop :=
  (∀ p : Preset, if (presetRow p).rev then (presetRow p).poly.getLsbD 15 = true else (presetRow p).poly.getLsbD 0 = true) ∧
    ∀ (rev : Bool) (poly start xorout : Half) (before after : List Byte) (b b' : Byte),
      (if rev then poly.getLsbD 15 = true else poly.getLsbD 0 = true) → b ≠ b' →
      final (process rev poly start (before ++ b :: after)) xorout ≠
        final (process rev poly start (before ++ b' :: after)) xorout

/-- The published check values over "123456789" (95_test_vectors.md section 1.3): XMODEM, KERMIT, CCITT-FALSE, USB, ARC. -/
def Obligations.StandardCheckValues : Prop :=
  let digits : List Byte := [0x31, 0x32, 0x33, 0x34, 0x35, 0x36, 0x37, 0x38, 0x39]
  final (process false 0x1021 0x0000 digits) 0x0000 = 0x31C3 ∧ final (process true 0x8408 0x0000 digits) 0x0000 = 0x2189 ∧
    final (process false 0x1021 0xFFFF digits) 0x0000 = 0x29B1 ∧ final (process true 0xA001 0xFFFF digits) 0xFFFF = 0xB4C8 ∧
    final (process true 0xA001 0x0000 digits) 0x0000 = 0xBB3D

/-! ## CALC and CALCS -/

/-- R75, R76, R78, R81: where no error condition holds, CALC sets RESULT to the checksum of the narrowed buffer from INIT
and STATUS.TRUNC to whether LEN was truncated, and changes nothing else; CALCS the same from SEED. -/
def Obligations.CalcComputesTheChecksum : Prop :=
  ∀ s : State, s.CalcAccepted →
    exec .calcInit s = .next { s with
      result := (s.bufferBytes (s.len.toNat % 2 ^ s.params.lenW)).foldl
        (fun crc b => if s.ctrlRev then refByte crc b s.poly else fwdByte crc b s.poly) s.init ^^^ s.xorout,
      statusTrunc := decide (2 ^ s.params.lenW ≤ s.len.toNat) } ∧
    exec .calcSeed s = .next { s with
      result := (s.bufferBytes (s.len.toNat % 2 ^ s.params.lenW)).foldl
        (fun crc b => if s.ctrlRev then refByte crc b s.poly else fwdByte crc b s.poly) s.seed ^^^ s.xorout,
      statusTrunc := decide (2 ^ s.params.lenW ≤ s.len.toNat) }

/-- R101, R103 to R105: CALC and CALCS record the first error condition in the order LEN_RANGE (4), NULL_BUF (2), BUS_FAULT
(3) for a buffer that wraps, BUS_FAULT (3) for a byte that is not readable, unless an error is recorded already, and
change nothing else. -/
def Obligations.CalcRecordsTheFirstErrorCondition : Prop :=
  ∀ (s : State) (i : Instr), i = .calcInit ∨ i = .calcSeed →
    let n := s.len.toNat % 2 ^ s.params.lenW
    let recorded (code : BitVec 4) : State := { s with statusErr := if s.statusErr = 0 then code else s.statusErr }
    (s.ctrlLchk = true ∧ 2 ^ s.params.lenW ≤ s.len.toNat → exec i s = .next (recorded 4)) ∧
    (¬(s.ctrlLchk = true ∧ 2 ^ s.params.lenW ≤ s.len.toNat) → n ≠ 0 ∧ s.addr = 0 → exec i s = .next (recorded 2)) ∧
    (¬(s.ctrlLchk = true ∧ 2 ^ s.params.lenW ≤ s.len.toNat) → ¬(n ≠ 0 ∧ s.addr = 0) →
      2 ^ s.params.addrW < s.addr.toNat + n → exec i s = .next (recorded 3)) ∧
    (¬(s.ctrlLchk = true ∧ 2 ^ s.params.lenW ≤ s.len.toNat) → ¬(n ≠ 0 ∧ s.addr = 0) →
      s.addr.toNat + n ≤ 2 ^ s.params.addrW → (∃ k < n, readable s.params (s.addr.toNat + k) = false) →
      exec i s = .next (recorded 3))

/-- R77: with a narrowed length of 0 (and, with LCHK set, a LEN that fits), CALC gives INIT ^ XOROUT and CALCS
SEED ^ XOROUT, whatever ADDR holds (a value of the ADDR_W-bit register) and whatever is readable. For CCITT-FALSE and LEN 0
that is 0xFFFF, for USB 0x0000. -/
def Obligations.ZeroLengthBufferGivesInitXorMask : Prop :=
  (∀ s : State, s.addr.toNat < 2 ^ s.params.addrW → s.len.toNat % 2 ^ s.params.lenW = 0 →
      (s.ctrlLchk = true → s.len.toNat < 2 ^ s.params.lenW) →
      exec .calcInit s = .next { s with
        result := s.init ^^^ s.xorout, statusTrunc := decide (2 ^ s.params.lenW ≤ s.len.toNat) } ∧
      exec .calcSeed s = .next { s with
        result := s.seed ^^^ s.xorout, statusTrunc := decide (2 ^ s.params.lenW ≤ s.len.toNat) }) ∧
    ∀ s : State, s.addr.toNat < 2 ^ s.params.addrW → s.len = 0 →
      (sampleCfg s = presetRow .ccittFalse → ∃ t, exec .calcInit s = .next t ∧ t.result = 0xFFFF) ∧
      (sampleCfg s = presetRow .usb → ∃ t, exec .calcInit s = .next t ∧ t.result = 0x0000)

/-- R5: with LEN_W = 32 no length is truncated and none is out of range. -/
def Obligations.FullWidthCounterNeverTruncates : Prop :=
  ∀ (s t : State) (i : Instr), s.params.lenW = 32 → i = .calcInit ∨ i = .calcSeed → exec i s = .next t →
    (∀ lchk, narrow s.params.lenW s.len lchk = .ok (s.len.toNat, false)) ∧
      (t.statusTrunc = true → s.statusTrunc = true) ∧ (t.statusErr = 4 → s.statusErr = 4)

/-- R76's corner case: with POLY = 0 every buffer of two or more bytes gives XOROUT, in either path and from any start. -/
def Obligations.ZeroPolynomialGivesTheOutputMask : Prop :=
  ∀ s : State, s.CalcAccepted → s.poly = 0 → 2 ≤ s.len.toNat % 2 ^ s.params.lenW →
    (∃ t, exec .calcInit s = .next t ∧ t.result = s.xorout) ∧ ∃ t, exec .calcSeed s = .next t ∧ t.result = s.xorout

/-- R79: a CALC over A, then a CALCS over B seeded with its result XOR XOROUT, gives the CALC over A followed by B,
wherever the three buffers lie; with XOROUT = 0 the seed is the result itself. -/
def Obligations.SeededCalculationChainsBuffers : Prop :=
  ∀ (sA sB sC : State) (A B : List Byte), sampleCfg sA = sampleCfg sB → sampleCfg sB = sampleCfg sC →
    sA.HoldsBuffer A → sB.HoldsBuffer B → sC.HoldsBuffer (A ++ B) →
    ∃ tA tB tC, exec .calcInit sA = .next tA ∧ exec .calcSeed { sB with seed := tA.result ^^^ sA.xorout } = .next tB ∧
      exec .calcInit sC = .next tC ∧ tB.result = tC.result ∧ (sA.xorout = 0 → tA.result ^^^ sA.xorout = tA.result)

/-- R78's corner case: with SEED = INIT, CALCS is CALC. -/
def Obligations.SeedEqualToInitGivesCalc : Prop :=
  ∀ s : State, s.seed = s.init → exec .calcSeed s = exec .calcInit s

/-- R80: what CALC does depends on POLY, INIT, XOROUT, REV, LCHK, ADDR, LEN, LEN_W, ADDR_W, Readable and the bytes of the
buffer alone: two states that agree on these get the same RESULT and TRUNC, or raise the same error, whatever else they
hold; and a CALC repeated changes nothing more. -/
def Obligations.CalcDependsOnItsInputsAlone : Prop :=
  (∀ s t : State, sampleCfg s = sampleCfg t → s.ctrlLchk = t.ctrlLchk → s.addr = t.addr → s.len = t.len →
    s.params.lenW = t.params.lenW → s.params.addrW = t.params.addrW →
    (∀ a, readable s.params a = readable t.params a) →
    (∀ k < s.len.toNat % 2 ^ s.params.lenW,
      Memory.read s.mem (s.addr.toNat + k) = Memory.read t.mem (t.addr.toNat + k)) →
    (∃ r b, exec .calcInit s = .next (setResult r b s) ∧ exec .calcInit t = .next (setResult r b t)) ∨
      ∃ e, exec .calcInit s = .next (raiseError e s) ∧ exec .calcInit t = .next (raiseError e t)) ∧
    ∀ s t : State, exec .calcInit s = .next t → exec .calcInit t = .next t

/-- R80 ("idempotent when repeated with identical inputs"; derived): issuing any command a second time changes nothing
more. -/
def Obligations.EveryCommandIsIdempotent : Prop :=
  ∀ (i : Instr) (s t : State), exec i s = .next t → exec i t = .next t

/-! ## Frames and errors -/

/-- R85, and R66, R87, R96, R97: the frame of all six commands. No command changes a byte of memory, ADDR, LEN, SEED,
RFLIN, CTRL.LCHK, a parameter or anything of the host's; the configuration changes only by PRESET, RESULT and TRUNC only
by CALC and CALCS, RFLOUT only by REFLECT, ERR only by CALC, CALCS and CLRERR; a CALC or CALCS that writes ERR writes
neither RESULT nor TRUNC. -/
def Obligations.CommandsChangeOnlyTheirRegisters : Prop :=
  ∀ (i : Instr) (s t : State), exec i s = .next t →
    (∀ a, Memory.read t.mem a = Memory.read s.mem a) ∧ t.mem = s.mem ∧
    t.addr = s.addr ∧ t.len = s.len ∧ t.seed = s.seed ∧ t.rflin = s.rflin ∧ t.ctrlLchk = s.ctrlLchk ∧
    t.params = s.params ∧ t.pending = s.pending ∧ t.observed = s.observed ∧ t.draws = s.draws ∧
    ((∀ p, i ≠ .preset p) → t.poly = s.poly ∧ t.init = s.init ∧ t.xorout = s.xorout ∧ t.ctrlRev = s.ctrlRev) ∧
    (i ≠ .calcInit → i ≠ .calcSeed → t.result = s.result ∧ t.statusTrunc = s.statusTrunc) ∧
    ((∀ bits, i ≠ .reflect bits) → t.rflout = s.rflout) ∧
    (i ≠ .calcInit → i ≠ .calcSeed → i ≠ .clrerr → t.statusErr = s.statusErr) ∧
    (t.statusErr ≠ s.statusErr → t.result = s.result ∧ t.statusTrunc = s.statusTrunc)

/-- R104: a command that records an error changes nothing but STATUS.ERR. -/
def Obligations.ErrorAbandonsItsCommand : Prop :=
  ∀ (w : Word) (s t : State), execute w s = .next t → t.statusErr ≠ s.statusErr → w ≠ 0x00000005 →
    t = { s with statusErr := t.statusErr }

/-- R103: raising an error stores its code (1 ILLEGAL_CMD, 2 NULL_BUF, 3 BUS_FAULT, 4 LEN_RANGE) if none is stored, and
changes nothing else; and a stored code is kept by every word written to CMD but CLRERR's. -/
def Obligations.FirstErrorIsKeptUntilClrerr : Prop :=
  (∀ (e : ErrCode) (s : State), raiseError e s = { s with statusErr := if s.statusErr = 0 then e.code else s.statusErr }) ∧
    ErrCode.illegalCmd.code = 1 ∧ ErrCode.nullBuf.code = 2 ∧ ErrCode.busFault.code = 3 ∧ ErrCode.lenRange.code = 4 ∧
    ∀ (w : Word) (s t : State), execute w s = .next t → s.statusErr ≠ 0 → w ≠ 0x00000005 → t.statusErr = s.statusErr

/-- R98: a recorded error blocks nothing: whatever STATUS.ERR held, a command leaves every other register as it would have
left it. -/
def Obligations.CommandsRunWhateverErrorIsRecorded : Prop :=
  ∀ (i : Instr) (s t : State) (err : BitVec 4), exec i s = .next t →
    ∃ t', exec i { s with statusErr := err } = .next t' ∧ { t' with statusErr := t.statusErr } = t

/-! ## The register window -/

/-- R90: what a host write does, offset by offset. -/
def Obligations.HostWriteSetsTheAddressedRegister : Prop :=
  ∀ (s : State) (w : Word),
    let write (off : Nat) := perform (.write (s.params.crcBase + off) 4 w) s
    write 0x00 = .next { s with poly := w.extractLsb' 0 16 } ∧ write 0x04 = .next { s with init := w.extractLsb' 0 16 } ∧
    write 0x08 = .next { s with xorout := w.extractLsb' 0 16 } ∧
    write 0x0C = .next { s with ctrlRev := w.getLsbD 0, ctrlLchk := w.getLsbD 1 } ∧
    write 0x10 = .next { s with addr := BitVec.ofNat 32 (w.toNat % 2 ^ s.params.addrW) } ∧
    write 0x14 = .next { s with len := w } ∧ write 0x18 = .next { s with seed := w.extractLsb' 0 16 } ∧
    write 0x20 = .next { s with rflin := w.extractLsb' 0 16 } ∧ write 0x28 = execute w s ∧
    write 0x1C = .next s ∧ write 0x24 = .next s ∧ write 0x2C = .next s ∧
    write 0x30 = .next s ∧ write 0x34 = .next s ∧ write 0x38 = .next s ∧ write 0x3C = .next s

/-- R91: what a host read returns, offset by offset; no register changes. -/
def Obligations.HostReadReturnsTheAddressedRegister : Prop :=
  ∀ s : State,
    let returns (off : Nat) (v : Word) :=
      perform (.read (s.params.crcBase + off) 4) s = .next { s with observed := s.observed ++ [v] }
    returns 0x00 (s.poly.setWidth 32) ∧ returns 0x04 (s.init.setWidth 32) ∧ returns 0x08 (s.xorout.setWidth 32) ∧
    returns 0x0C ((if s.ctrlLchk then 2 else 0) ||| if s.ctrlRev then 1 else 0) ∧ returns 0x10 s.addr ∧ returns 0x14 s.len ∧
    returns 0x18 (s.seed.setWidth 32) ∧ returns 0x1C (s.result.setWidth 32) ∧ returns 0x20 (s.rflin.setWidth 32) ∧
    returns 0x24 (s.rflout.setWidth 32) ∧ returns 0x28 0 ∧
    returns 0x2C ((if s.statusTrunc then 0x100 else 0) ||| s.statusErr.setWidth 32) ∧
    returns 0x30 0 ∧ returns 0x34 0 ∧ returns 0x38 0 ∧ returns 0x3C 0

/-- R92: a read after a write of the same RW register returns the written value with the reserved bits cleared, and the
write changes neither RESULT, RFLOUT nor STATUS. -/
def Obligations.ReadAfterWriteClearsReservedBits : Prop :=
  ∀ (s : State) (w : Word) (off : Nat) (mask : Word), s.params.addrW ≤ 32 →
    (off, mask) ∈ [(0x00, (0x0000FFFF : Word)), (0x04, 0x0000FFFF), (0x08, 0x0000FFFF), (0x0C, 0x00000003),
      (0x10, BitVec.ofNat 32 (2 ^ s.params.addrW - 1)), (0x14, 0xFFFFFFFF), (0x18, 0x0000FFFF), (0x20, 0x0000FFFF)] →
    ∃ t u, perform (.write (s.params.crcBase + off) 4 w) s = .next t ∧
      perform (.read (s.params.crcBase + off) 4) t = .next u ∧ u.observed = s.observed ++ [w &&& mask] ∧
      t.result = s.result ∧ t.rflout = s.rflout ∧ t.statusErr = s.statusErr ∧ t.statusTrunc = s.statusTrunc

/-- R44: an access that touches the window and is not 32 bits wide, or is at an offset that is no multiple of 4, has no
step. -/
def Obligations.MisshapenWindowAccessIsRefused : Prop :=
  ∀ (s : State) (a n : Nat) (w : Word), a < s.params.crcBase + 64 → s.params.crcBase < a + n →
    n ≠ 4 ∨ a < s.params.crcBase ∨ (a - s.params.crcBase) % 4 ≠ 0 →
    perform (.write a n w) s = .refused .windowAccess ∧ perform (.read a n) s = .refused .windowAccess

/-- R33: of two instances at different 64-byte aligned bases, an aligned 32-bit access changes at most one. -/
def Obligations.InstancesAreIndependent : Prop :=
  ∀ (s t : State) (a : Nat) (w : Word), s.params.wf → t.params.wf → s.params.crcBase ≠ t.params.crcBase → a % 4 = 0 →
    (perform (.write a 4 w) s = .next s ∨ perform (.write a 4 w) t = .next t) ∧
      (perform (.read a 4) s = .next s ∨ perform (.read a 4) t = .next t)

/-- R33 (derived; log entry 7): an access of any width and alignment that does not begin in the window and has no byte in it
changes nothing. (From one byte up, the first premise follows from the second; an access of no byte at all that begins in
the window is of another width, which R44 refuses.) -/
def Obligations.AccessOutsideTheWindowChangesNothing : Prop :=
  ∀ (s : State) (a n : Nat) (w : Word), (a < s.params.crcBase ∨ s.params.crcBase + 64 ≤ a) →
    (∀ k < n, a + k < s.params.crcBase ∨ s.params.crcBase + 64 ≤ a + k) →
    perform (.write a n w) s = .next s ∧ perform (.read a n) s = .next s

/-- R46, R99: a host read has no side effect on the block, and two reads of a register in a row return the same value. -/
def Obligations.HostReadsHaveNoSideEffect : Prop :=
  ∀ (s t : State) (a n : Nat), perform (.read a n) s = .next t →
    t = { s with observed := t.observed } ∧
      ∃ values : List Word, t.observed = s.observed ++ values ∧
        ∃ u, perform (.read a n) t = .next u ∧ u.observed = s.observed ++ values ++ values

/-! ## Memory -/

/-- R49(b) (derived): a host store to an address of the buffer memory is seen by every later read of that byte; no other
byte and nothing else changes. That the store is visible to what follows is R49(b)'s premise on the platform (log entry
15), and that a store at an address that is not Readable changes Mem all the same is the model's choice (log entry 8). -/
def Obligations.HostStoreIsSeenByLaterReads : Prop :=
  ∀ (s : State) (a : Nat) (b : Byte), a < 2 ^ s.params.addrW → Memory.wf s.mem →
    ∃ m, perform (.store a b) s = .next { s with mem := m } ∧ Memory.wf m ∧ Memory.read m a = b ∧
      ∀ x, x ≠ a → Memory.read m x = Memory.read s.mem x

/-- R49(c), U3 (derived; the event is the model's form, log entry 6): a racing byte becomes the next free byte, whatever
that is; no other byte changes. -/
def Obligations.RacingByteIsUnconstrained : Prop :=
  ∀ (s : State) (a : Nat), a < 2 ^ s.params.addrW → Memory.wf s.mem →
    ∃ m, perform (.race a) s = .next { s with mem := m, draws := s.draws + 1 } ∧ Memory.wf m ∧
      Memory.read m a = Config.freeByte s.draws ∧ ∀ x, x ≠ a → Memory.read m x = Memory.read s.mem x

/-- R38: the block never writes memory: only a host store, or another agent's racing write, changes a byte, and only the
byte it names. -/
def Obligations.BlockNeverWritesMemory : Prop :=
  ∀ s t : State, Memory.wf s.mem → step s = .next t →
    (∀ a, Memory.read t.mem a = Memory.read s.mem a) ∨
      ∃ a b rest, (s.pending = .store a b :: rest ∨ s.pending = .race a :: rest) ∧
        ∀ x, x ≠ a → Memory.read t.mem x = Memory.read s.mem x

/-! ## Reset and whole-machine rules -/

/-- R116 (derived): a reset gives every register its reset value, from any state; the configuration is then the XMODEM
preset; memory keeps its contents. That the parameters, the other pending events, the host's log and the draw counter
also stay is the model's (log entry 10). -/
def Obligations.ResetSetsEveryRegister : Prop :=
  ∀ (s : State) (rest : List HostEvent), s.pending = .reset :: rest →
    step s = .next { s with
      poly := 0x1021, init := 0x0000, xorout := 0x0000, ctrlRev := false, ctrlLchk := false, addr := 0, len := 0, seed := 0,
      result := 0, rflin := 0, rflout := 0, statusErr := 0, statusTrunc := false, pending := rest } ∧
    sampleCfg (resetRegisters s) = presetRow .xmodem

/-- R34, R119: the reset state holds R34's values, and a CALC right after reset gives RESULT = 0x0000 and no error. -/
def Obligations.CalcRightAfterResetGivesZero : Prop :=
  State.reset.poly = 0x1021 ∧ State.reset.init = 0 ∧ State.reset.xorout = 0 ∧ State.reset.ctrlRev = false ∧
    State.reset.ctrlLchk = false ∧ State.reset.addr = 0 ∧ State.reset.len = 0 ∧ State.reset.seed = 0 ∧
    State.reset.result = 0 ∧ State.reset.rflin = 0 ∧ State.reset.rflout = 0 ∧ State.reset.statusErr = 0 ∧
    State.reset.statusTrunc = false ∧
    ∃ t, exec .calcInit State.reset = .next t ∧ t.result = 0x0000 ∧ t.statusErr = 0 ∧ t.statusTrunc = false

/-- The reset state meets the invariant. -/
def Obligations.ResetMeetsTheInvariant : Prop := State.reset.Inv

/-- R4, R20, R27, R37: every step keeps the invariant: legal parameters, a canonical memory inside the address space,
ADDR inside it, STATUS.ERR one of the codes 0 to 4. -/
def Obligations.StepKeepsTheInvariant : Prop := ∀ s t : State, s.Inv → step s = .next t → t.Inv

/-- R4: no step changes a parameter. -/
def Obligations.StepKeepsTheParameters : Prop := ∀ s t : State, step s = .next t → t.params = s.params

/-- R24, R28: RESULT and STATUS.TRUNC change only by a reset, or by a CALC or CALCS word written to CMD that raises no
error. -/
def Obligations.ResultChangesOnlyByCalcOrReset : Prop :=
  ∀ s t : State, step s = .next t → t.result ≠ s.result ∨ t.statusTrunc ≠ s.statusTrunc →
    ∃ e rest, s.pending = e :: rest ∧
      (e = .reset ∨
        (e = .write (s.params.crcBase + 0x28) 4 0x00000001 ∨ e = .write (s.params.crcBase + 0x28) 4 0x00000002) ∧
          t = { s with pending := rest, result := t.result, statusTrunc := t.statusTrunc })

/-- R25: RFLOUT changes only by a reset or by a REFLECT word written to CMD, which leaves every other register. -/
def Obligations.RfloutChangesOnlyByReflectOrReset : Prop :=
  ∀ s t : State, step s = .next t → t.rflout ≠ s.rflout →
    ∃ e rest, s.pending = e :: rest ∧
      (e = .reset ∨ ∃ w bits, e = .write (s.params.crcBase + 0x28) 4 w ∧ decode w = .ok (.reflect bits) ∧
        t = { s with pending := rest, rflout := t.rflout })

/-- R27: STATUS.ERR changes only by a reset or CLRERR, which clear it, or from 0 to a code 1 to 4 by a word written to
CMD. -/
def Obligations.ErrChangesOnlyByErrorClrerrOrReset : Prop :=
  ∀ s t : State, step s = .next t → t.statusErr ≠ s.statusErr →
    ∃ e rest, s.pending = e :: rest ∧
      ((e = .reset ∧ t.statusErr = 0) ∨
        ∃ w, e = .write (s.params.crcBase + 0x28) 4 w ∧
          ((w = 0x00000005 ∧ t.statusErr = 0) ∨ (s.statusErr = 0 ∧ 1 ≤ t.statusErr.toNat ∧ t.statusErr.toNat ≤ 4)))

/-- R20 to R23 ("Never written by the block"): ADDR, LEN, SEED and RFLIN change only by a reset or by a host write of that
very register. -/
def Obligations.OperandRegistersAreNeverWrittenByTheBlock : Prop :=
  ∀ s t : State, step s = .next t → (∀ rest, s.pending ≠ .reset :: rest) →
    (t.addr ≠ s.addr → ∃ w rest, s.pending = .write (s.params.crcBase + 0x10) 4 w :: rest) ∧
    (t.len ≠ s.len → ∃ w rest, s.pending = .write (s.params.crcBase + 0x14) 4 w :: rest) ∧
    (t.seed ≠ s.seed → ∃ w rest, s.pending = .write (s.params.crcBase + 0x18) 4 w :: rest) ∧
    (t.rflin ≠ s.rflin → ∃ w rest, s.pending = .write (s.params.crcBase + 0x20) 4 w :: rest)

/-- R15 to R18: the configuration changes only by a reset, a host write of that very register, or a PRESET word written to
CMD; CTRL.LCHK not by PRESET. -/
def Obligations.ConfigurationChangesOnlyByWritePresetOrReset : Prop :=
  ∀ s t : State, step s = .next t → (∀ rest, s.pending ≠ .reset :: rest) →
    let written (off : Nat) := ∃ w rest, s.pending = .write (s.params.crcBase + off) 4 w :: rest
    let preset := ∃ w p rest, s.pending = .write (s.params.crcBase + 0x28) 4 w :: rest ∧ decode w = .ok (.preset p)
    (t.poly ≠ s.poly → written 0x00 ∨ preset) ∧ (t.init ≠ s.init → written 0x04 ∨ preset) ∧
    (t.xorout ≠ s.xorout → written 0x08 ∨ preset) ∧ (t.ctrlRev ≠ s.ctrlRev → written 0x0C ∨ preset) ∧
    (t.ctrlLchk ≠ s.ctrlLchk → written 0x0C)
end

