-- ==== Sys2Proof/Laws/State.lean ====
section
/-! SUPPORT. For each named update of State, one lemma per field: the field it writes has the new value, every other field
keeps its own. -/

namespace Sys2Proof.Machine

@[simp] theorem raiseError_poly (e : ErrCode) (s : State) : (raiseError e s).poly = s.poly := rfl
@[simp] theorem raiseError_init (e : ErrCode) (s : State) : (raiseError e s).init = s.init := rfl
@[simp] theorem raiseError_xorout (e : ErrCode) (s : State) : (raiseError e s).xorout = s.xorout := rfl
@[simp] theorem raiseError_ctrlRev (e : ErrCode) (s : State) : (raiseError e s).ctrlRev = s.ctrlRev := rfl
@[simp] theorem raiseError_ctrlLchk (e : ErrCode) (s : State) : (raiseError e s).ctrlLchk = s.ctrlLchk := rfl
@[simp] theorem raiseError_addr (e : ErrCode) (s : State) : (raiseError e s).addr = s.addr := rfl
@[simp] theorem raiseError_len (e : ErrCode) (s : State) : (raiseError e s).len = s.len := rfl
@[simp] theorem raiseError_seed (e : ErrCode) (s : State) : (raiseError e s).seed = s.seed := rfl
@[simp] theorem raiseError_result (e : ErrCode) (s : State) : (raiseError e s).result = s.result := rfl
@[simp] theorem raiseError_rflin (e : ErrCode) (s : State) : (raiseError e s).rflin = s.rflin := rfl
@[simp] theorem raiseError_rflout (e : ErrCode) (s : State) : (raiseError e s).rflout = s.rflout := rfl
@[simp] theorem raiseError_statusErr (e : ErrCode) (s : State) : (raiseError e s).statusErr = firstError s.statusErr e.code := rfl
@[simp] theorem raiseError_statusTrunc (e : ErrCode) (s : State) : (raiseError e s).statusTrunc = s.statusTrunc := rfl
@[simp] theorem raiseError_params (e : ErrCode) (s : State) : (raiseError e s).params = s.params := rfl
@[simp] theorem raiseError_mem (e : ErrCode) (s : State) : (raiseError e s).mem = s.mem := rfl
@[simp] theorem raiseError_pending (e : ErrCode) (s : State) : (raiseError e s).pending = s.pending := rfl
@[simp] theorem raiseError_observed (e : ErrCode) (s : State) : (raiseError e s).observed = s.observed := rfl
@[simp] theorem raiseError_draws (e : ErrCode) (s : State) : (raiseError e s).draws = s.draws := rfl

@[simp] theorem clearError_poly (s : State) : (clearError s).poly = s.poly := rfl
@[simp] theorem clearError_init (s : State) : (clearError s).init = s.init := rfl
@[simp] theorem clearError_xorout (s : State) : (clearError s).xorout = s.xorout := rfl
@[simp] theorem clearError_ctrlRev (s : State) : (clearError s).ctrlRev = s.ctrlRev := rfl
@[simp] theorem clearError_ctrlLchk (s : State) : (clearError s).ctrlLchk = s.ctrlLchk := rfl
@[simp] theorem clearError_addr (s : State) : (clearError s).addr = s.addr := rfl
@[simp] theorem clearError_len (s : State) : (clearError s).len = s.len := rfl
@[simp] theorem clearError_seed (s : State) : (clearError s).seed = s.seed := rfl
@[simp] theorem clearError_result (s : State) : (clearError s).result = s.result := rfl
@[simp] theorem clearError_rflin (s : State) : (clearError s).rflin = s.rflin := rfl
@[simp] theorem clearError_rflout (s : State) : (clearError s).rflout = s.rflout := rfl
@[simp] theorem clearError_statusErr (s : State) : (clearError s).statusErr = 0 := rfl
@[simp] theorem clearError_statusTrunc (s : State) : (clearError s).statusTrunc = s.statusTrunc := rfl
@[simp] theorem clearError_params (s : State) : (clearError s).params = s.params := rfl
@[simp] theorem clearError_mem (s : State) : (clearError s).mem = s.mem := rfl
@[simp] theorem clearError_pending (s : State) : (clearError s).pending = s.pending := rfl
@[simp] theorem clearError_observed (s : State) : (clearError s).observed = s.observed := rfl
@[simp] theorem clearError_draws (s : State) : (clearError s).draws = s.draws := rfl

@[simp] theorem setResult_poly (r : Half) (t : Bool) (s : State) : (setResult r t s).poly = s.poly := rfl
@[simp] theorem setResult_init (r : Half) (t : Bool) (s : State) : (setResult r t s).init = s.init := rfl
@[simp] theorem setResult_xorout (r : Half) (t : Bool) (s : State) : (setResult r t s).xorout = s.xorout := rfl
@[simp] theorem setResult_ctrlRev (r : Half) (t : Bool) (s : State) : (setResult r t s).ctrlRev = s.ctrlRev := rfl
@[simp] theorem setResult_ctrlLchk (r : Half) (t : Bool) (s : State) : (setResult r t s).ctrlLchk = s.ctrlLchk := rfl
@[simp] theorem setResult_addr (r : Half) (t : Bool) (s : State) : (setResult r t s).addr = s.addr := rfl
@[simp] theorem setResult_len (r : Half) (t : Bool) (s : State) : (setResult r t s).len = s.len := rfl
@[simp] theorem setResult_seed (r : Half) (t : Bool) (s : State) : (setResult r t s).seed = s.seed := rfl
@[simp] theorem setResult_result (r : Half) (t : Bool) (s : State) : (setResult r t s).result = r := rfl
@[simp] theorem setResult_rflin (r : Half) (t : Bool) (s : State) : (setResult r t s).rflin = s.rflin := rfl
@[simp] theorem setResult_rflout (r : Half) (t : Bool) (s : State) : (setResult r t s).rflout = s.rflout := rfl
@[simp] theorem setResult_statusErr (r : Half) (t : Bool) (s : State) : (setResult r t s).statusErr = s.statusErr := rfl
@[simp] theorem setResult_statusTrunc (r : Half) (t : Bool) (s : State) : (setResult r t s).statusTrunc = t := rfl
@[simp] theorem setResult_params (r : Half) (t : Bool) (s : State) : (setResult r t s).params = s.params := rfl
@[simp] theorem setResult_mem (r : Half) (t : Bool) (s : State) : (setResult r t s).mem = s.mem := rfl
@[simp] theorem setResult_pending (r : Half) (t : Bool) (s : State) : (setResult r t s).pending = s.pending := rfl
@[simp] theorem setResult_observed (r : Half) (t : Bool) (s : State) : (setResult r t s).observed = s.observed := rfl
@[simp] theorem setResult_draws (r : Half) (t : Bool) (s : State) : (setResult r t s).draws = s.draws := rfl

@[simp] theorem setRflout_poly (v : Half) (s : State) : (setRflout v s).poly = s.poly := rfl
@[simp] theorem setRflout_init (v : Half) (s : State) : (setRflout v s).init = s.init := rfl
@[simp] theorem setRflout_xorout (v : Half) (s : State) : (setRflout v s).xorout = s.xorout := rfl
@[simp] theorem setRflout_ctrlRev (v : Half) (s : State) : (setRflout v s).ctrlRev = s.ctrlRev := rfl
@[simp] theorem setRflout_ctrlLchk (v : Half) (s : State) : (setRflout v s).ctrlLchk = s.ctrlLchk := rfl
@[simp] theorem setRflout_addr (v : Half) (s : State) : (setRflout v s).addr = s.addr := rfl
@[simp] theorem setRflout_len (v : Half) (s : State) : (setRflout v s).len = s.len := rfl
@[simp] theorem setRflout_seed (v : Half) (s : State) : (setRflout v s).seed = s.seed := rfl
@[simp] theorem setRflout_result (v : Half) (s : State) : (setRflout v s).result = s.result := rfl
@[simp] theorem setRflout_rflin (v : Half) (s : State) : (setRflout v s).rflin = s.rflin := rfl
@[simp] theorem setRflout_rflout (v : Half) (s : State) : (setRflout v s).rflout = v := rfl
@[simp] theorem setRflout_statusErr (v : Half) (s : State) : (setRflout v s).statusErr = s.statusErr := rfl
@[simp] theorem setRflout_statusTrunc (v : Half) (s : State) : (setRflout v s).statusTrunc = s.statusTrunc := rfl
@[simp] theorem setRflout_params (v : Half) (s : State) : (setRflout v s).params = s.params := rfl
@[simp] theorem setRflout_mem (v : Half) (s : State) : (setRflout v s).mem = s.mem := rfl
@[simp] theorem setRflout_pending (v : Half) (s : State) : (setRflout v s).pending = s.pending := rfl
@[simp] theorem setRflout_observed (v : Half) (s : State) : (setRflout v s).observed = s.observed := rfl
@[simp] theorem setRflout_draws (v : Half) (s : State) : (setRflout v s).draws = s.draws := rfl

@[simp] theorem loadCfg_poly (c : Cfg) (s : State) : (loadCfg c s).poly = c.poly := rfl
@[simp] theorem loadCfg_init (c : Cfg) (s : State) : (loadCfg c s).init = c.init := rfl
@[simp] theorem loadCfg_xorout (c : Cfg) (s : State) : (loadCfg c s).xorout = c.xorout := rfl
@[simp] theorem loadCfg_ctrlRev (c : Cfg) (s : State) : (loadCfg c s).ctrlRev = c.rev := rfl
@[simp] theorem loadCfg_ctrlLchk (c : Cfg) (s : State) : (loadCfg c s).ctrlLchk = s.ctrlLchk := rfl
@[simp] theorem loadCfg_addr (c : Cfg) (s : State) : (loadCfg c s).addr = s.addr := rfl
@[simp] theorem loadCfg_len (c : Cfg) (s : State) : (loadCfg c s).len = s.len := rfl
@[simp] theorem loadCfg_seed (c : Cfg) (s : State) : (loadCfg c s).seed = s.seed := rfl
@[simp] theorem loadCfg_result (c : Cfg) (s : State) : (loadCfg c s).result = s.result := rfl
@[simp] theorem loadCfg_rflin (c : Cfg) (s : State) : (loadCfg c s).rflin = s.rflin := rfl
@[simp] theorem loadCfg_rflout (c : Cfg) (s : State) : (loadCfg c s).rflout = s.rflout := rfl
@[simp] theorem loadCfg_statusErr (c : Cfg) (s : State) : (loadCfg c s).statusErr = s.statusErr := rfl
@[simp] theorem loadCfg_statusTrunc (c : Cfg) (s : State) : (loadCfg c s).statusTrunc = s.statusTrunc := rfl
@[simp] theorem loadCfg_params (c : Cfg) (s : State) : (loadCfg c s).params = s.params := rfl
@[simp] theorem loadCfg_mem (c : Cfg) (s : State) : (loadCfg c s).mem = s.mem := rfl
@[simp] theorem loadCfg_pending (c : Cfg) (s : State) : (loadCfg c s).pending = s.pending := rfl
@[simp] theorem loadCfg_observed (c : Cfg) (s : State) : (loadCfg c s).observed = s.observed := rfl
@[simp] theorem loadCfg_draws (c : Cfg) (s : State) : (loadCfg c s).draws = s.draws := rfl

@[simp] theorem observe_poly (v : Word) (s : State) : (observe v s).poly = s.poly := rfl
@[simp] theorem observe_init (v : Word) (s : State) : (observe v s).init = s.init := rfl
@[simp] theorem observe_xorout (v : Word) (s : State) : (observe v s).xorout = s.xorout := rfl
@[simp] theorem observe_ctrlRev (v : Word) (s : State) : (observe v s).ctrlRev = s.ctrlRev := rfl
@[simp] theorem observe_ctrlLchk (v : Word) (s : State) : (observe v s).ctrlLchk = s.ctrlLchk := rfl
@[simp] theorem observe_addr (v : Word) (s : State) : (observe v s).addr = s.addr := rfl
@[simp] theorem observe_len (v : Word) (s : State) : (observe v s).len = s.len := rfl
@[simp] theorem observe_seed (v : Word) (s : State) : (observe v s).seed = s.seed := rfl
@[simp] theorem observe_result (v : Word) (s : State) : (observe v s).result = s.result := rfl
@[simp] theorem observe_rflin (v : Word) (s : State) : (observe v s).rflin = s.rflin := rfl
@[simp] theorem observe_rflout (v : Word) (s : State) : (observe v s).rflout = s.rflout := rfl
@[simp] theorem observe_statusErr (v : Word) (s : State) : (observe v s).statusErr = s.statusErr := rfl
@[simp] theorem observe_statusTrunc (v : Word) (s : State) : (observe v s).statusTrunc = s.statusTrunc := rfl
@[simp] theorem observe_params (v : Word) (s : State) : (observe v s).params = s.params := rfl
@[simp] theorem observe_mem (v : Word) (s : State) : (observe v s).mem = s.mem := rfl
@[simp] theorem observe_pending (v : Word) (s : State) : (observe v s).pending = s.pending := rfl
@[simp] theorem observe_observed (v : Word) (s : State) : (observe v s).observed = s.observed ++ [v] := rfl
@[simp] theorem observe_draws (v : Word) (s : State) : (observe v s).draws = s.draws := rfl

@[simp] theorem putByte_poly (a : Nat) (b : Byte) (s : State) : (putByte a b s).poly = s.poly := rfl
@[simp] theorem putByte_init (a : Nat) (b : Byte) (s : State) : (putByte a b s).init = s.init := rfl
@[simp] theorem putByte_xorout (a : Nat) (b : Byte) (s : State) : (putByte a b s).xorout = s.xorout := rfl
@[simp] theorem putByte_ctrlRev (a : Nat) (b : Byte) (s : State) : (putByte a b s).ctrlRev = s.ctrlRev := rfl
@[simp] theorem putByte_ctrlLchk (a : Nat) (b : Byte) (s : State) : (putByte a b s).ctrlLchk = s.ctrlLchk := rfl
@[simp] theorem putByte_addr (a : Nat) (b : Byte) (s : State) : (putByte a b s).addr = s.addr := rfl
@[simp] theorem putByte_len (a : Nat) (b : Byte) (s : State) : (putByte a b s).len = s.len := rfl
@[simp] theorem putByte_seed (a : Nat) (b : Byte) (s : State) : (putByte a b s).seed = s.seed := rfl
@[simp] theorem putByte_result (a : Nat) (b : Byte) (s : State) : (putByte a b s).result = s.result := rfl
@[simp] theorem putByte_rflin (a : Nat) (b : Byte) (s : State) : (putByte a b s).rflin = s.rflin := rfl
@[simp] theorem putByte_rflout (a : Nat) (b : Byte) (s : State) : (putByte a b s).rflout = s.rflout := rfl
@[simp] theorem putByte_statusErr (a : Nat) (b : Byte) (s : State) : (putByte a b s).statusErr = s.statusErr := rfl
@[simp] theorem putByte_statusTrunc (a : Nat) (b : Byte) (s : State) : (putByte a b s).statusTrunc = s.statusTrunc := rfl
@[simp] theorem putByte_params (a : Nat) (b : Byte) (s : State) : (putByte a b s).params = s.params := rfl
@[simp] theorem putByte_mem (a : Nat) (b : Byte) (s : State) : (putByte a b s).mem = Memory.write s.mem a b := rfl
@[simp] theorem putByte_pending (a : Nat) (b : Byte) (s : State) : (putByte a b s).pending = s.pending := rfl
@[simp] theorem putByte_observed (a : Nat) (b : Byte) (s : State) : (putByte a b s).observed = s.observed := rfl
@[simp] theorem putByte_draws (a : Nat) (b : Byte) (s : State) : (putByte a b s).draws = s.draws := rfl

@[simp] theorem drawByte_poly (a : Nat) (s : State) : (drawByte a s).poly = s.poly := rfl
@[simp] theorem drawByte_init (a : Nat) (s : State) : (drawByte a s).init = s.init := rfl
@[simp] theorem drawByte_xorout (a : Nat) (s : State) : (drawByte a s).xorout = s.xorout := rfl
@[simp] theorem drawByte_ctrlRev (a : Nat) (s : State) : (drawByte a s).ctrlRev = s.ctrlRev := rfl
@[simp] theorem drawByte_ctrlLchk (a : Nat) (s : State) : (drawByte a s).ctrlLchk = s.ctrlLchk := rfl
@[simp] theorem drawByte_addr (a : Nat) (s : State) : (drawByte a s).addr = s.addr := rfl
@[simp] theorem drawByte_len (a : Nat) (s : State) : (drawByte a s).len = s.len := rfl
@[simp] theorem drawByte_seed (a : Nat) (s : State) : (drawByte a s).seed = s.seed := rfl
@[simp] theorem drawByte_result (a : Nat) (s : State) : (drawByte a s).result = s.result := rfl
@[simp] theorem drawByte_rflin (a : Nat) (s : State) : (drawByte a s).rflin = s.rflin := rfl
@[simp] theorem drawByte_rflout (a : Nat) (s : State) : (drawByte a s).rflout = s.rflout := rfl
@[simp] theorem drawByte_statusErr (a : Nat) (s : State) : (drawByte a s).statusErr = s.statusErr := rfl
@[simp] theorem drawByte_statusTrunc (a : Nat) (s : State) : (drawByte a s).statusTrunc = s.statusTrunc := rfl
@[simp] theorem drawByte_params (a : Nat) (s : State) : (drawByte a s).params = s.params := rfl
@[simp] theorem drawByte_mem (a : Nat) (s : State) : (drawByte a s).mem = Memory.write s.mem a (Config.freeByte s.draws) := rfl
@[simp] theorem drawByte_pending (a : Nat) (s : State) : (drawByte a s).pending = s.pending := rfl
@[simp] theorem drawByte_observed (a : Nat) (s : State) : (drawByte a s).observed = s.observed := rfl
@[simp] theorem drawByte_draws (a : Nat) (s : State) : (drawByte a s).draws = s.draws + 1 := rfl

@[simp] theorem resetRegisters_poly (s : State) : (resetRegisters s).poly = 0x1021 := rfl
@[simp] theorem resetRegisters_init (s : State) : (resetRegisters s).init = 0 := rfl
@[simp] theorem resetRegisters_xorout (s : State) : (resetRegisters s).xorout = 0 := rfl
@[simp] theorem resetRegisters_ctrlRev (s : State) : (resetRegisters s).ctrlRev = false := rfl
@[simp] theorem resetRegisters_ctrlLchk (s : State) : (resetRegisters s).ctrlLchk = false := rfl
@[simp] theorem resetRegisters_addr (s : State) : (resetRegisters s).addr = 0 := rfl
@[simp] theorem resetRegisters_len (s : State) : (resetRegisters s).len = 0 := rfl
@[simp] theorem resetRegisters_seed (s : State) : (resetRegisters s).seed = 0 := rfl
@[simp] theorem resetRegisters_result (s : State) : (resetRegisters s).result = 0 := rfl
@[simp] theorem resetRegisters_rflin (s : State) : (resetRegisters s).rflin = 0 := rfl
@[simp] theorem resetRegisters_rflout (s : State) : (resetRegisters s).rflout = 0 := rfl
@[simp] theorem resetRegisters_statusErr (s : State) : (resetRegisters s).statusErr = 0 := rfl
@[simp] theorem resetRegisters_statusTrunc (s : State) : (resetRegisters s).statusTrunc = false := rfl
@[simp] theorem resetRegisters_params (s : State) : (resetRegisters s).params = s.params := rfl
@[simp] theorem resetRegisters_mem (s : State) : (resetRegisters s).mem = s.mem := rfl
@[simp] theorem resetRegisters_pending (s : State) : (resetRegisters s).pending = s.pending := rfl
@[simp] theorem resetRegisters_observed (s : State) : (resetRegisters s).observed = s.observed := rfl
@[simp] theorem resetRegisters_draws (s : State) : (resetRegisters s).draws = s.draws := rfl

end Sys2Proof.Machine
end

