-- ==== Sys2Proof/Laws/Ops.lean ====
section
/-! SUPPORT. The laws of the shared operations: memory reads after writes and the canonical form, what MemRead, the
narrowing and the recording of an error can answer, what a register write leaves unchanged. -/

namespace Sys2Proof.Machine

/-! Memory -/

@[simp] theorem Memory.read_nil (a : Nat) : Memory.read [] a = memDefault := rfl

theorem Memory.read_cons (c : Host.Cell) (m : List Host.Cell) (a : Nat) :
    Memory.read (c :: m) a = if c.1 = a then c.2 else Memory.read m a := rfl

/-- An address below every listed one reads as the default. -/
theorem Memory.read_of_lt {m : List Host.Cell} {a : Nat} (h : ∀ c ∈ m, a < c.1) : Memory.read m a = memDefault := by
  induction m with
  | nil => rfl
  | cons c rest ih =>
    have hc : a < c.1 := h c (by simp)
    rw [Memory.read_cons, if_neg (by omega), ih (fun d hd => h d (by simp [hd]))]

theorem Memory.mem_cell {c : Host.Cell} {a : Nat} {b : Byte} (h : c ∈ Memory.cell a b) : c = (a, b) ∧ b ≠ memDefault := by
  unfold Memory.cell at h
  split at h
  · simp at h
  · exact ⟨by simpa using h, by assumption⟩

/-- The head of a canonical memory lies below the rest. -/
theorem Memory.wf_head {c : Host.Cell} {m : List Host.Cell} (h : Memory.wf (c :: m)) : ∀ d ∈ m, c.1 < d.1 :=
  (List.pairwise_cons.mp h.1).1

theorem Memory.wf_tail {c : Host.Cell} {m : List Host.Cell} (h : Memory.wf (c :: m)) : Memory.wf m :=
  ⟨(List.pairwise_cons.mp h.1).2, fun d hd => h.2 d (by simp [hd])⟩

/-- Prefixing the cell of an address below every listed one keeps the canonical form. -/
theorem Memory.wf_cell_append {m : List Host.Cell} {a : Nat} {b : Byte} (hm : Memory.wf m) (ha : ∀ c ∈ m, a < c.1) :
    Memory.wf (Memory.cell a b ++ m) := by
  unfold Memory.cell
  split
  · simpa using hm
  · rename_i hb
    refine ⟨List.pairwise_cons.mpr ⟨ha, hm.1⟩, fun c hc => ?_⟩
    rcases List.mem_cons.mp hc with rfl | hc
    · exact hb
    · exact hm.2 c hc

theorem Memory.read_cell_append {m : List Host.Cell} {a : Nat} (b : Byte) (ha : ∀ c ∈ m, a < c.1) (x : Nat) :
    Memory.read (Memory.cell a b ++ m) x = if x = a then b else Memory.read m x := by
  unfold Memory.cell
  split
  · rename_i hb
    by_cases hx : x = a
    · subst hx; simp [Memory.read_of_lt ha, hb]
    · simp [hx]
  · by_cases hx : x = a
    · simp [Memory.read_cons, hx]
    · simp [Memory.read_cons, hx, Ne.symm hx]

/-- Which cells a write leaves: the written one, or an old one. -/
theorem Memory.mem_write {m : List Host.Cell} {a : Nat} {b : Byte} {c : Host.Cell} (h : c ∈ Memory.write m a b) :
    c = (a, b) ∨ c ∈ m := by
  induction m with
  | nil => exact .inl (Memory.mem_cell h).1
  | cons d rest ih =>
    unfold Memory.write at h
    split at h
    · rcases List.mem_append.mp h with h | h
      · exact .inl (Memory.mem_cell h).1
      · exact .inr h
    · split at h
      · rcases List.mem_append.mp h with h | h
        · exact .inl (Memory.mem_cell h).1
        · exact .inr (by simp [h])
      · rcases List.mem_cons.mp h with h | h
        · exact .inr (by simp [h])
        · exact (ih h).imp id (fun h => by simp [h])

/-- Every memory write keeps the canonical form. -/
theorem Memory.write_wf {m : List Host.Cell} (hm : Memory.wf m) (a : Nat) (b : Byte) : Memory.wf (Memory.write m a b) := by
  induction m with
  | nil => simpa [Memory.write] using Memory.wf_cell_append (a := a) (b := b) hm (by simp)
  | cons d rest ih =>
    have hd := Memory.wf_head hm
    have ht := Memory.wf_tail hm
    unfold Memory.write
    split
    · rename_i h
      refine Memory.wf_cell_append hm (fun c hc => ?_)
      rcases List.mem_cons.mp hc with rfl | hc
      · exact h
      · exact lt_trans h (hd c hc)
    · split
      · rename_i h
        exact Memory.wf_cell_append ht (fun c hc => h ▸ hd c hc)
      · refine ⟨List.pairwise_cons.mpr ⟨fun c hc => ?_, (ih ht).1⟩, fun c hc => ?_⟩
        · rcases Memory.mem_write hc with rfl | hc
          · show d.1 < a
            omega
          · exact hd c hc
        · rcases List.mem_cons.mp hc with rfl | hc
          · exact hm.2 _ (by simp)
          · exact (ih ht).2 c hc

/-- A read after a write: the written byte at its address, the old byte everywhere else. -/
theorem Memory.read_write {m : List Host.Cell} (hm : Memory.wf m) (a : Nat) (b : Byte) (x : Nat) :
    Memory.read (Memory.write m a b) x = if x = a then b else Memory.read m x := by
  induction m with
  | nil => simpa [Memory.write] using Memory.read_cell_append (m := []) (a := a) b (by simp) x
  | cons d rest ih =>
    have hd := Memory.wf_head hm
    unfold Memory.write
    split
    · rename_i h
      refine Memory.read_cell_append b (fun c hc => ?_) x
      rcases List.mem_cons.mp hc with rfl | hc
      · exact h
      · exact lt_trans h (hd c hc)
    · split
      · rename_i h
        rw [Memory.read_cell_append b (fun c hc => h ▸ hd c hc) x]
        by_cases hx : x = a
        · simp [hx]
        · rw [if_neg hx, if_neg hx, Memory.read_cons, if_neg (by omega)]
      · rename_i h
        rw [Memory.read_cons, Memory.read_cons, ih (Memory.wf_tail hm)]
        by_cases hx : x = a
        · subst hx
          rw [if_neg (by omega)]
          simp
        · simp [hx]

/-- Equal reads, equal memories: the canonical form is one per contents. -/
theorem Memory.ext_of_read {m m' : List Host.Cell} (hm : Memory.wf m) (hm' : Memory.wf m')
    (h : ∀ a, Memory.read m a = Memory.read m' a) : m = m' := by
  induction m generalizing m' with
  | nil =>
    cases m' with
    | nil => rfl
    | cons d rest =>
      have hd := h d.1
      rw [Memory.read_cons, if_pos rfl] at hd
      exact absurd hd.symm (hm'.2 d (by simp))
  | cons c rest ih =>
    cases m' with
    | nil =>
      have hc := h c.1
      rw [Memory.read_cons, if_pos rfl] at hc
      exact absurd hc (hm.2 c (by simp))
    | cons d rest' =>
      have hcd : c.1 = d.1 := by
        by_contra hne
        rcases Nat.lt_or_gt_of_ne hne with hlt | hlt
        · have hc := h c.1
          rw [Memory.read_cons, if_pos rfl, Memory.read_cons, if_neg (by omega),
            Memory.read_of_lt (fun x hx => lt_trans hlt (Memory.wf_head hm' x hx))] at hc
          exact hm.2 c (by simp) hc
        · have hd := h d.1
          rw [Memory.read_cons, if_neg (by omega), Memory.read_cons, if_pos rfl,
            Memory.read_of_lt (fun x hx => lt_trans hlt (Memory.wf_head hm x hx))] at hd
          exact hm'.2 d (by simp) hd.symm
      have hval : c.2 = d.2 := by
        have hc := h c.1
        rwa [Memory.read_cons, if_pos rfl, Memory.read_cons, if_pos hcd.symm] at hc
      have hrest : rest = rest' := by
        refine ih (Memory.wf_tail hm) (Memory.wf_tail hm') (fun a => ?_)
        by_cases ha : c.1 = a
        · rw [Memory.read_of_lt (fun x hx => ha ▸ Memory.wf_head hm x hx),
            Memory.read_of_lt (fun x hx => ha ▸ hcd ▸ Memory.wf_head hm' x hx)]
        · have := h a
          rwa [Memory.read_cons, if_neg ha, Memory.read_cons, if_neg (hcd ▸ ha)] at this
      rw [hrest, Prod.ext hcd hval]

/-! Reading a byte, narrowing a length, recording an error -/

/-- What MemRead can answer (R41). -/
theorem memRead_cases (s : State) (a : Nat) :
    (readable s.params a = true ∧ memRead s a = .ok (Memory.read s.mem a)) ∨
      (readable s.params a = false ∧ memRead s a = .error .busFault) := by
  unfold memRead
  cases h : readable s.params a
  · exact .inr ⟨rfl, rfl⟩
  · exact .inl ⟨rfl, rfl⟩

/-- What the narrowing can answer (R74): the remainder with the truncation flag, or LEN_RANGE. -/
theorem narrow_eq (lenW : Nat) (len : Word) (lchk : Bool) :
    narrow lenW len lchk =
      if lchk = true ∧ 2 ^ lenW ≤ len.toNat then .error .lenRange
      else .ok (len.toNat % 2 ^ lenW, decide (2 ^ lenW ≤ len.toNat)) := by
  unfold narrow lenOverflows
  by_cases h : 2 ^ lenW ≤ len.toNat
  · cases lchk <;> simp [h]
  · simp [h, Nat.mod_eq_of_lt (Nat.lt_of_not_le h)]

theorem firstError_of_zero (c : BitVec 4) : firstError 0 c = c := rfl

theorem firstError_of_ne {e : BitVec 4} (h : e ≠ 0) (c : BitVec 4) : firstError e c = e := if_neg h

theorem ErrCode.code_ne_zero (e : ErrCode) : e.code ≠ 0 := by cases e <;> decide

theorem ErrCode.code_le (e : ErrCode) : e.code.toNat ≤ 4 := by cases e <;> decide

/-- Recording an error leaves a legal code where there was one (R27). -/
theorem firstError_le {x : BitVec 4} (h : x.toNat ≤ 4) (e : ErrCode) : (firstError x e.code).toNat ≤ 4 := by
  unfold firstError
  split
  · exact e.code_le
  · exact h

/-- A second error changes nothing (R103). -/
theorem raiseError_raiseError (e e' : ErrCode) (s : State) : raiseError e' (raiseError e s) = raiseError e s := by
  have : firstError s.statusErr e.code ≠ 0 := by
    unfold firstError
    split
    · exact e.code_ne_zero
    · assumption
  simp only [raiseError, firstError_of_ne this]

/-! Register writes -/

/-- The register field of an ADDR_W-bit value lies in the address space (R20). -/
theorem addrField_lt (addrW : Nat) (w : Word) : (addrField addrW w).toNat < 2 ^ addrW := by
  have h : w.toNat % 2 ^ addrW < 2 ^ addrW := Nat.mod_lt _ (Nat.two_pow_pos _)
  simp only [addrField, BitVec.toNat_ofNat]
  exact lt_of_le_of_lt (Nat.mod_le _ _) h

@[simp] theorem writeReg_result (r : Reg) (w : Word) (s : State) : (writeReg r w s).result = s.result := by cases r <;> rfl
@[simp] theorem writeReg_rflout (r : Reg) (w : Word) (s : State) : (writeReg r w s).rflout = s.rflout := by cases r <;> rfl
@[simp] theorem writeReg_statusErr (r : Reg) (w : Word) (s : State) : (writeReg r w s).statusErr = s.statusErr := by
  cases r <;> rfl
@[simp] theorem writeReg_statusTrunc (r : Reg) (w : Word) (s : State) : (writeReg r w s).statusTrunc = s.statusTrunc := by
  cases r <;> rfl
@[simp] theorem writeReg_params (r : Reg) (w : Word) (s : State) : (writeReg r w s).params = s.params := by cases r <;> rfl
@[simp] theorem writeReg_mem (r : Reg) (w : Word) (s : State) : (writeReg r w s).mem = s.mem := by cases r <;> rfl
@[simp] theorem writeReg_pending (r : Reg) (w : Word) (s : State) : (writeReg r w s).pending = s.pending := by cases r <;> rfl
@[simp] theorem writeReg_observed (r : Reg) (w : Word) (s : State) : (writeReg r w s).observed = s.observed := by
  cases r <;> rfl
@[simp] theorem writeReg_draws (r : Reg) (w : Word) (s : State) : (writeReg r w s).draws = s.draws := by cases r <;> rfl

/-- ADDR after a register write: the written field, or the old value (R90). -/
theorem writeReg_addr (r : Reg) (w : Word) (s : State) :
    (writeReg r w s).addr = if r = .addr then addrField s.params.addrW w else s.addr := by cases r <;> rfl

/-- The window's offsets name its registers (R59). -/
@[simp] theorem regAt_regOffset (r : Reg) : regAt (regOffset r) = some r := by cases r <;> rfl

theorem regOffset_lt (r : Reg) : regOffset r < 64 := by cases r <;> decide

/-- A 32-bit access at a register's offset reaches that register (R59). -/
@[simp] theorem windowReg_offset (base : Nat) (r : Reg) : windowReg base (base + regOffset r) 4 = some r := by
  simp [windowReg]

@[simp] theorem outsideWindow_offset (base : Nat) (r : Reg) : outsideWindow base (base + regOffset r) 4 = false := by
  have := regOffset_lt r
  simp only [outsideWindow, Bool.or_eq_false_iff, Bool.and_eq_false_iff, decide_eq_false_iff_not]
  omega

end Sys2Proof.Machine
end

