-- ==== Sys2Proof/Laws/Engine.lean ====
section
/-! SUPPORT. The engine's laws: what the byte loop and CalcCore can answer, and the running register over a sequence. -/

namespace Sys2Proof.Machine

@[simp] theorem process_nil (rev : Bool) (poly start : Half) : process rev poly start [] = start := rfl

@[simp] theorem process_cons (rev : Bool) (poly start : Half) (b : Byte) (bs : List Byte) :
    process rev poly start (b :: bs) = process rev poly (stepByte rev poly start b) bs := rfl

/-- The byte loop answers the fold over the bytes it reads where every one is readable (R72, R75). -/
theorem calcLoop_ok (rev : Bool) (poly : Half) (s : State) (count a : Nat) (crc : Half)
    (h : ∀ i < count, readable s.params (a + i) = true) :
    calcLoop rev poly s count a crc =
      .ok (process rev poly crc ((List.range count).map (fun i => Memory.read s.mem (a + i)))) := by
  induction count generalizing a crc with
  | zero => rfl
  | succ k ih =>
    have h0 : readable s.params a = true := by simpa using h 0 (by omega)
    have hs : ∀ i < k, readable s.params (a + 1 + i) = true := fun i hi => by
      simpa [Nat.add_assoc, Nat.add_comm 1 i] using h (i + 1) (by omega)
    simp only [calcLoop, memRead, h0, if_true, ih _ _ hs, List.range_succ_eq_map, List.map_cons, List.map_map, process_cons,
      Nat.add_zero]
    simp [Function.comp_def, Nat.add_assoc, Nat.add_comm 1]

/-- The byte loop answers BUS_FAULT where some byte is not readable (R41, R101). -/
theorem calcLoop_error (rev : Bool) (poly : Half) (s : State) (count a : Nat) (crc : Half)
    (h : ∃ i < count, readable s.params (a + i) = false) : calcLoop rev poly s count a crc = .error .busFault := by
  induction count generalizing a crc with
  | zero => obtain ⟨i, hi, -⟩ := h; omega
  | succ k ih =>
    obtain ⟨i, hi, hr⟩ := h
    rcases memRead_cases s a with ⟨h0, hm⟩ | ⟨-, hm⟩
    · simp only [calcLoop, hm]
      refine ih _ _ ⟨i - 1, ?_, ?_⟩
      · rcases i with _ | i
        · simp [h0] at hr
        · omega
      · rcases i with _ | i
        · simp [h0] at hr
        · simpa [Nat.add_assoc, Nat.add_comm 1] using hr
    · simp only [calcLoop, hm]

/-- The loop reads nothing of the state but Readable and Mem. -/
theorem calcLoop_congr (rev : Bool) (poly : Half) {s t : State} (hp : s.params = t.params) (hm : s.mem = t.mem)
    (count a : Nat) (crc : Half) : calcLoop rev poly s count a crc = calcLoop rev poly t count a crc := by
  induction count generalizing a crc with
  | zero => rfl
  | succ k ih => simp only [calcLoop, memRead, hp, hm, ih]

/-- CalcCore in full (R75, R105): the error conditions in priority order, then the checksum and the truncation flag. -/
theorem calcCore_eq (start : Half) (s : State) :
    calcCore start s =
      if s.ctrlLchk = true ∧ 2 ^ s.params.lenW ≤ s.len.toNat then .error .lenRange
      else if s.len.toNat % 2 ^ s.params.lenW ≠ 0 ∧ s.addr = 0 then .error .nullBuf
      else if 2 ^ s.params.addrW < s.addr.toNat + s.len.toNat % 2 ^ s.params.lenW then .error .busFault
      else if ∀ i < s.len.toNat % 2 ^ s.params.lenW, readable s.params (s.addr.toNat + i) = true then
        .ok (process s.ctrlRev s.poly start ((List.range (s.len.toNat % 2 ^ s.params.lenW)).map
          (fun i => Memory.read s.mem (s.addr.toNat + i))) ^^^ s.xorout, decide (2 ^ s.params.lenW ≤ s.len.toNat))
      else .error .busFault := by
  unfold calcCore checkBuffer
  rw [narrow_eq]
  generalize s.len.toNat % 2 ^ s.params.lenW = n
  by_cases h1 : s.ctrlLchk = true ∧ 2 ^ s.params.lenW ≤ s.len.toNat
  · simp only [if_pos h1]
  · simp only [if_neg h1]
    by_cases h2 : n ≠ 0 ∧ s.addr = 0
    · simp only [if_pos h2]
    · simp only [if_neg h2]
      by_cases h3 : 2 ^ s.params.addrW < s.addr.toNat + n
      · simp only [if_pos h3]
      · simp only [if_neg h3, sampleCfg]
        by_cases h4 : ∀ i < n, readable s.params (s.addr.toNat + i) = true
        · simp only [if_pos h4, calcLoop_ok _ _ _ _ _ _ h4, final]
        · rw [calcLoop_error _ _ _ _ _ _ (by simpa using h4)]
          simp only [if_neg h4]

/-- What a CALC or CALCS can do: complete with RESULT and STATUS.TRUNC written, or record one error (R75, R104). -/
theorem runCalc_cases (start : Half) (s : State) :
    (∃ r t, calcCore start s = .ok (r, t) ∧ runCalc start s = .next (setResult r t s)) ∨
      ∃ e, calcCore start s = .error e ∧ runCalc start s = .next (raiseError e s) := by
  unfold runCalc
  rcases h : calcCore start s with e | ⟨r, t⟩
  · exact .inr ⟨e, rfl, rfl⟩
  · exact .inl ⟨r, t, rfl, rfl⟩

end Sys2Proof.Machine
end

