-- ==== Sys2Proof/Laws/PerInstr.lean ====
section
/-! SUPPORT. Statements about every instruction as syntax, one lemma per constructor. -/

namespace Sys2Proof.Laws.EncodesSelectedRow

/-- The word of a well-formed instruction is selected by a row of R52's table. -/
def Statement (i : Instr) : Prop := i.WellFormed → opRows.any (fun r => r.selects (encode i)) = true

theorem nop : Statement .nop := fun _ => by decide

theorem calcInit : Statement .calcInit := fun _ => by decide

theorem calcSeed : Statement .calcSeed := fun _ => by decide

theorem reflect (bits : Nat) : Statement (.reflect bits) := fun h => by
  simp only [Instr.WellFormed, Instr.wellFormed, Bool.and_eq_true, decide_eq_true_eq] at h
  obtain ⟨h1, h2⟩ := h
  interval_cases bits <;> decide

theorem preset (p : Preset) : Statement (.preset p) := fun _ => by cases p <;> decide

theorem clrerr : Statement .clrerr := fun _ => by decide

end Sys2Proof.Laws.EncodesSelectedRow
end

