-- ==== Sys2Proof/Laws/Step.lean ====
section
/-! SUPPORT. Inversion: what a command, an outside event and a step can do when they answer a next state. Later proofs
cite these instead of unfolding the machine. -/

namespace Sys2Proof.Machine

/-- What a command can do (R94). -/
theorem exec_cases {i : Instr} {s t : State} (h : exec i s = .next t) :
    (i = .nop ∧ t = s) ∨
      ((i = .calcInit ∨ i = .calcSeed) ∧ ∃ r b, t = setResult r b s) ∨
      ((i = .calcInit ∨ i = .calcSeed) ∧ ∃ e, t = raiseError e s) ∨
      (∃ bits, i = .reflect bits ∧ 1 ≤ bits ∧ bits ≤ 16 ∧ t = setRflout (reflect s.rflin bits) s) ∨
      (∃ p, i = .preset p ∧ t = loadCfg (presetRow p) s) ∨
      (i = .clrerr ∧ t = clearError s) := by
  cases i with
  | nop => exact .inl ⟨rfl, by simpa [exec, execNop] using h.symm⟩
  | calcInit =>
    rcases runCalc_cases s.init s with ⟨r, b, -, hr⟩ | ⟨e, -, hr⟩
    · exact .inr (.inl ⟨.inl rfl, r, b, by simpa [exec, execCalc, hr] using h.symm⟩)
    · exact .inr (.inr (.inl ⟨.inl rfl, e, by simpa [exec, execCalc, hr] using h.symm⟩))
  | calcSeed =>
    rcases runCalc_cases s.seed s with ⟨r, b, -, hr⟩ | ⟨e, -, hr⟩
    · exact .inr (.inl ⟨.inr rfl, r, b, by simpa [exec, execCalcs, hr] using h.symm⟩)
    · exact .inr (.inr (.inl ⟨.inr rfl, e, by simpa [exec, execCalcs, hr] using h.symm⟩))
  | reflect bits =>
    simp only [exec, execReflect] at h
    split at h
    · rename_i hb
      exact .inr (.inr (.inr (.inl ⟨bits, rfl, hb.1, hb.2, by simpa using h.symm⟩)))
    · cases h
  | preset p => exact .inr (.inr (.inr (.inr (.inl ⟨p, rfl, by simpa [exec, execPreset] using h.symm⟩))))
  | clrerr => exact .inr (.inr (.inr (.inr (.inr ⟨rfl, by simpa [exec, execClrerr] using h.symm⟩))))

/-- What a word written to CMD can do: run the command it encodes, or record ILLEGAL_CMD (R94). -/
theorem execute_cases (w : Word) (s : State) :
    (∃ i, decode w = .ok i ∧ execute w s = exec i s) ∨
      ∃ e, decode w = .error e ∧ execute w s = .next (raiseError .illegalCmd s) := by
  unfold execute
  rcases h : decode w with e | i
  · exact .inr ⟨e, rfl, rfl⟩
  · exact .inl ⟨i, rfl, rfl⟩

/-- What an outside event can do when the machine goes on. -/
theorem perform_cases {e : HostEvent} {s t : State} (h : perform e s = .next t) :
    t = s ∨
      (∃ a w, e = .write a 4 w ∧ windowReg s.params.crcBase a 4 = some .cmd ∧ execute w s = .next t) ∨
      (∃ a w r, e = .write a 4 w ∧ windowReg s.params.crcBase a 4 = some r ∧ r ≠ .cmd ∧ t = writeReg r w s) ∨
      (∃ a r, e = .read a 4 ∧ windowReg s.params.crcBase a 4 = some r ∧ t = observe (readReg r s) s) ∨
      (∃ a b, e = .store a b ∧ a < 2 ^ s.params.addrW ∧ t = putByte a b s) ∨
      (∃ a, e = .race a ∧ a < 2 ^ s.params.addrW ∧ t = drawByte a s) ∨
      (e = .reset ∧ t = resetRegisters s) := by
  have width {base a n : Nat} {r : Reg} (h : windowReg base a n = some r) : n = 4 := by
    unfold windowReg at h
    split at h
    · exact (by assumption : _ ∧ _).1
    · cases h
  cases e with
  | write a n w =>
    simp only [perform, busWrite] at h
    split at h
    · exact .inl (by simpa using h.symm)
    · split at h
      · rename_i r hr
        obtain rfl := width hr
        unfold hostWrite at h
        split at h
        · rename_i hc
          exact .inr (.inl ⟨a, w, rfl, hc ▸ hr, h⟩)
        · rename_i hc
          exact .inr (.inr (.inl ⟨a, w, r, rfl, hr, hc, by simpa using h.symm⟩))
      · cases h
  | read a n =>
    simp only [perform, busRead] at h
    split at h
    · exact .inl (by simpa using h.symm)
    · split at h
      · rename_i r hr
        obtain rfl := width hr
        exact .inr (.inr (.inr (.inl ⟨a, r, rfl, hr, by simpa [hostRead] using h.symm⟩)))
      · cases h
  | store a b =>
    simp only [perform, onBufferByte] at h
    split at h
    · rename_i ha
      exact .inr (.inr (.inr (.inr (.inl ⟨a, b, rfl, ha, by simpa using h.symm⟩))))
    · cases h
  | race a =>
    simp only [perform, onBufferByte] at h
    split at h
    · rename_i ha
      exact .inr (.inr (.inr (.inr (.inr (.inl ⟨a, rfl, ha, by simpa using h.symm⟩)))))
    · cases h
  | reset => exact .inr (.inr (.inr (.inr (.inr (.inr ⟨rfl, by simpa [perform] using h.symm⟩)))))

/-- What a step can do: nothing with no event pending, else the oldest event on the state without it. -/
theorem step_cases (s : State) :
    (s.pending = [] ∧ step s = .next s) ∨
      ∃ e rest, s.pending = e :: rest ∧ step s = perform e { s with pending := rest } := by
  unfold step
  rcases h : s.pending with _ | ⟨e, rest⟩
  · exact .inl ⟨rfl, rfl⟩
  · exact .inr ⟨e, rest, rfl, rfl⟩

/-- A CMD write performs the command word (R26). -/
@[simp] theorem perform_cmdWrite (s : State) (w : Word) : perform (cmdWrite s.params.crcBase w) s = execute w s := by
  simp [perform, cmdWrite, busWrite, hostWrite]

/-- The only lines that stand for no accesses: `crc.reflect` outside 1 to 16 (R62). -/
theorem expand_error_iff (line : HostLine) (e : HostLineError) :
    line.expand = .error e ↔ ∃ bits, line = .crcReflect bits ∧ (bits = 0 ∨ 16 < bits) ∧ e = .reflectWidth bits := by
  cases line with
  | crcReflect bits =>
    simp only [HostLine.expand]
    split <;> simp [eq_comm] <;> omega
  | _ => simp [HostLine.expand]

/-- A legal `crc.reflect` line issues the command word of REFLECT at that width (R62, R66). -/
theorem reflectWord_eq_encode (bits : Nat) (h1 : 1 ≤ bits) (h16 : bits ≤ 16) : reflectWord bits = encode (.reflect bits) := by
  interval_cases bits <;> rfl

/-- A `crc.preset` line issues the command word of PRESET with that row (R62, R87). -/
theorem presetWord_eq_encode (p : Preset) : presetWord p = encode (.preset p) := by cases p <;> rfl

/-- A program's events are its first line's, then the rest's, where both have some (R61). -/
theorem programEvents_cons {base : Nat} {line : HostLine} {lines : List HostLine} {accesses : List Access}
    {events : List HostEvent} (hl : line.expand = .ok accesses) (hr : programEvents base lines = .ok events) :
    programEvents base (line :: lines) = .ok (accesses.map (Access.event base) ++ events) := by
  simp [programEvents, hl, hr]

end Sys2Proof.Machine
end

