-- ==== Sys2Proof/Tests/Slice0.lean ====
section
/-! SUPPORT. Tests: decoding of words written out from the spec's encodings, the well-formedness check, one step at a time
against the spec's own vectors (95_test_vectors.md; each test names its table), and a witness for the hypotheses of every
statement. -/

namespace Sys2Proof.Tests

open Sys2Proof Sys2Proof.Machine

/-! ## Helpers -/

/-- The next state of an outcome, if it is one. -/
def nextOf : Host.Outcome State Fault Refusal → Option State
  | .next t => some t
  | .fault _ => none
  | .refused _ => none

/-- The refusal of an outcome, if it is one. -/
def refusalOf : Host.Outcome State Fault Refusal → Option Refusal
  | .next _ => none
  | .fault _ => none
  | .refused r => some r

/-- The reset state over a memory, with a buffer address and length. -/
def st (mem : List Host.Cell) (addr len : Word) : State := { State.reset with mem := mem, addr := addr, len := len }

/-- "505" at 0x1000, as the spec's programs have it. -/
def mem505 : List Host.Cell := [(0x1000, 0x35), (0x1001, 0x30), (0x1002, 0x35)]

def demo : State := st mem505 0x1000 3

/-- RESULT and STATUS after a command. -/
def resultAfter (i : Instr) (s : State) : Option (Half × Word) := (nextOf (exec i s)).map (fun t => (t.result, readReg .status t))

/-- The state with one pending event. -/
def pend (e : HostEvent) (s : State) : State := { s with pending := [e] }

/-! ## Well-formedness: the one check, refused on both sides of its range -/

theorem test_reflect_width_0_is_ill_formed : ¬(Instr.reflect 0).WellFormed := by decide
theorem test_reflect_width_17_is_ill_formed : ¬(Instr.reflect 17).WellFormed := by decide
theorem test_reflect_widths_1_and_16_are_well_formed : (Instr.reflect 1).WellFormed ∧ (Instr.reflect 16).WellFormed := by decide

/-! ## Decoding: words written bit by bit from R51 (RSV, ARG, OP) and R58 -/

theorem test_decode_nop : decode 0b00000000000000000000_0000_00000000 = .ok .nop := by decide
theorem test_decode_calc : decode 0b00000000000000000000_0000_00000001 = .ok .calcInit := by decide
theorem test_decode_calcs : decode 0b00000000000000000000_0000_00000010 = .ok .calcSeed := by decide
theorem test_decode_reflect_16 : decode 0b00000000000000000000_1111_00000011 = .ok (.reflect 16) := by decide
theorem test_decode_reflect_3 : decode 0b00000000000000000000_0010_00000011 = .ok (.reflect 3) := by decide
theorem test_decode_preset_kermit : decode 0b00000000000000000000_0001_00000100 = .ok (.preset .kermit) := by decide
theorem test_decode_preset_usb : decode 0b00000000000000000000_0011_00000100 = .ok (.preset .usb) := by decide
theorem test_decode_clrerr : decode 0b00000000000000000000_0000_00000101 = .ok .clrerr := by decide
theorem test_decode_unassigned_op : decode 0x00000006 = .error (.unassignedOp 0x06) := by decide
theorem test_decode_reflect_bit_12 : decode 0x00001F03 = .error (.reservedBits 1) := by decide
theorem test_decode_preset_arg_4 : decode 0x00000404 = .error (.argBits 4) := by decide
theorem test_decode_calc_bit_31 : decode 0x80000001 = .error (.reservedBits 0x80000) := by decide
theorem test_table_word : decodeTableWord 32 0x00000703 = some (.reflect 8) := by decide
theorem test_table_word_illegal : decodeTableWord 32 0x000000FF = none := by decide

/-! ## The step from reset -/

theorem test_step_runs_preset_first : (nextOf (step (State.reset.withFetchWord 32 0x304))).map sampleCfg =
    some { poly := 0xA001, init := 0xFFFF, xorout := 0xFFFF, rev := true } := by decide
theorem test_step_runs_calc_first : nextOf (step (State.reset.withFetchWord 32 0x1)) = some State.reset := by decide
theorem test_step_idle : nextOf (step State.reset) = some State.reset := by decide

/-! ## REFLECT: 95_test_vectors.md section 2.1 -/

theorem test_reflect_1021 : reflect 0x1021 16 = 0x8408 := by decide
theorem test_reflect_1234_at_8 : reflect 0x1234 8 = 0x002C := by decide
theorem test_reflect_6_at_3 : reflect 0x0006 3 = 0x0003 := by decide
theorem test_reflect_ffff_at_15 : reflect 0xFFFF 15 = 0x7FFF := by decide
theorem test_reflect_2_at_1 : reflect 0x0002 1 = 0x0000 := by decide
theorem test_exec_reflect : (nextOf (exec (.reflect 8) { State.reset with rflin := 0xFF01 })).map State.rflout = some 0x0080 := by
  decide

/-! ## Byte functions: section 2.2 -/

theorem test_fwd_byte_35 : fwdByte 0x0000 0x35 0x1021 = 0x66F6 := by decide
theorem test_fwd_byte_trace_5 : fwdBits 5 0x0000 0x35 0x1021 = 0x60C6 := by decide
theorem test_fwd_byte_ones : fwdByte 0xFFFF 0x00 0x1021 = 0xE1F0 := by decide
theorem test_ref_byte_35 : refByte 0x0000 0x35 0x8408 = 0x662E := by decide
theorem test_ref_byte_trace_3 : refBits 3 0x0035 0x8408 = 0xA50C := by decide
theorem test_ref_byte_ones : refByte 0xFFFF 0x00 0xA001 = 0x40BF := by decide

/-! ## CALC, CALCS: sections 2.3 to 2.6 -/

theorem test_calc_xmodem : resultAfter .calcInit demo = some (0x4D36, 0) := by decide +kernel
theorem test_calc_usb : resultAfter .calcInit (loadCfg (presetRow .usb) demo) = some (0x264A, 0) := by decide +kernel
theorem test_calcs_kermit_ffff :
    resultAfter .calcSeed { loadCfg (presetRow .kermit) demo with seed := 0xFFFF } = some (0x56AC, 0) := by decide +kernel
theorem test_calcs_usb_literal_seed_does_not_chain :
    resultAfter .calcSeed { loadCfg (presetRow .usb) (st mem505 0x1002 1) with seed := 0x0BE9 } = some (0x66F5, 0) := by
  decide +kernel
theorem test_calc_truncated : resultAfter .calcInit (st [(0x1001, 1), (0x1002, 2)] 0x1000 259) = some (0x1373, 0x100) := by
  decide +kernel
theorem test_calc_sticky_error :
    resultAfter .calcInit { st [] 0xFFFFFFFE 3 with statusErr := 2, result := 0x1111 } = some (0x1111, 2) := by decide +kernel

/-! ## PRESET, CLRERR, register access: section 2.7 -/

theorem test_preset_keeps_lchk :
    (nextOf (exec (.preset .usb) { State.reset with ctrlLchk := true })).map (fun t => readReg .ctrl t) = some 3 := by decide
theorem test_clrerr_keeps_trunc :
    (nextOf (exec .clrerr { State.reset with statusErr := 3, statusTrunc := true })).map (readReg .status) = some 0x100 := by decide
theorem test_nop : nextOf (exec .nop demo) = some demo := by decide
theorem test_write_poly : (nextOf (perform (.write 0x00 4 0xDEAD1021) demo)).map (readReg .poly) = some 0x1021 := by decide
theorem test_write_ctrl : (nextOf (perform (.write 0x0C 4 0xFFFFFFFF) demo)).map (readReg .ctrl) = some 3 := by decide
theorem test_write_addr_12_bits : (nextOf (perform (.write 0x10 4 0xFFFF_F234)
    { demo with params := { Params.reference with addrW := 12 } })).map (readReg .addr) = some 0x234 := by decide
theorem test_write_result_ignored : nextOf (perform (.write 0x1C 4 0x1234) demo) = some demo := by decide
theorem test_read_cmd : (nextOf (perform (.read 0x28 4) demo)).map State.observed = some [0] := by decide

/-! ## Memory -/

theorem test_store_zero_unlists : Memory.write mem505 0x1001 0 = [(0x1000, 0x35), (0x1002, 0x35)] := by decide
theorem test_store_top_of_memory : (nextOf (perform (.store 0xFFFFFFFF 7) demo)).map (fun t => Memory.read t.mem 0xFFFFFFFF) =
    some 7 := by decide

/-! ## Witnesses: each shows a state and operands that meet all the hypotheses of a statement together, clause by clause -/

/-- Each disjunct at an edge of its range, and one word just outside every one. -/
theorem witness_IllegalWordOnlyRecordsIllegalCmd :
    [0x00000006, 0x000000FF, 0x80000001, 0x00001F03, 0x00000100, 0x00000F05, 0x00000404].map (decodeTableWord 32) =
      List.replicate 7 none ∧
    [0x00000005, 0x00000F03, 0x00000304].map (decodeTableWord 32) =
      [some .clrerr, some (.reflect 16), some (.preset .usb)] ∧
    decode 0x00000101 = .error (.argBits 1) := by decide

theorem witness_NopChangesNothing :
    (0x00000100 : Word).extractLsb' 0 8 = 0x00 ∧ (0x80000000 : Word).extractLsb' 0 8 = 0x00 ∧ (0x80000000 : Word) ≠ 0 := by decide

/-- Both ends of R62's range of widths and the numbers beside them; a program with such a line is no program. -/
theorem witness_PseudoInstructionsExpand :
    (HostLine.crcReflect 1).expand = .ok [⟨.write, 0x28, 0x00000003⟩] ∧
    (HostLine.crcReflect 16).expand = .ok [⟨.write, 0x28, 0x00000F03⟩] ∧
    (HostLine.crcReflect 0).expand = .error (.reflectWidth 0) ∧
    (HostLine.crcReflect 17).expand = .error (.reflectWidth 17) ∧
    demo.withProgram [.crcNop, .crcReflect 17] = .error (.reflectWidth 17) := by decide

theorem witness_StepRunsTheDecodedCommand :
    (pend (.write 0x28 4 0x1) demo).pending = .write ((pend (.write 0x28 4 0x1) demo).params.crcBase + 0x28) 4 0x1 :: [] ∧
    decode 0x1 = .ok .calcInit ∧ (Instr.reflect 16).WellFormed := by decide

theorem witness_StepPerformsTheOldestEvent : (pend .reset demo).pending = .reset :: [] ∧ demo.pending = [] := by decide

theorem witness_StepStopsOnlyOnABadAccess :
    refusalOf (step (pend (.write 0x02 4 0) demo)) = some .windowAccess ∧
    refusalOf (step (pend (.read 0x28 2) demo)) = some .windowAccess ∧
    refusalOf (step (pend (.read 0x3F 4) demo)) = some .windowAccess ∧ SafeStep (pend (.read 0x40 3) demo) ∧
    nextOf (step (pend (.store (2 ^ 32) 0) demo)) = none ∧ nextOf (step (pend (.race (2 ^ 32)) demo)) = none :=
  ⟨by decide, by decide, by decide, ⟨demo, rfl⟩, by decide, by decide⟩

theorem witness_EveryCommandAnswersANextState : (Instr.reflect 1).WellFormed ∧ Instr.calcInit.WellFormed := by decide

theorem witness_ClrerrClearsTheRecordedError :
    demo.statusErr = 0 ∧ nextOf (exec .clrerr demo) = some demo ∧
    readReg .status { demo with statusErr := 3, statusTrunc := true } = 0x00000103 := by decide

theorem witness_PresetLoadsItsRow :
    (nextOf (exec (.preset .xmodem) demo)).isSome = true ∧ sampleCfg demo = presetRow .xmodem ∧
    (0x00000404 : Word).extractLsb' 0 8 = 0x04 ∧ (0x00000404 : Word).extractLsb' 10 2 ≠ 0 ∧
    (0x00000804 : Word).extractLsb' 0 8 = 0x04 ∧ (0x00000804 : Word).extractLsb' 10 2 ≠ 0 := by decide

theorem witness_ReflectReversesTheLowBits :
    (nextOf (exec (.reflect 1) { demo with rflin := 3 })).map State.rflout = some 1 ∧
    (nextOf (exec (.reflect 16) { demo with rflin := 0x8000 })).map State.rflout = some 1 ∧
    (0x00001F03 : Word).extractLsb' 0 8 = 0x03 ∧ (0x00001F03 : Word).extractLsb' 12 20 ≠ 0 ∧
    ({ demo with rflin := 0x1021 } : State).rflin = 0x1021 := by decide

theorem witness_ReflectRefusesWidthsOutsideItsRange :
    refusalOf (exec (.reflect 0) demo) = some (.reflectWidth 0) ∧ refusalOf (exec (.reflect 17) demo) = some (.reflectWidth 17) := by
  decide

theorem witness_ReflectRunsExactlyBitsIterations :
    reflectLoop 0x1021 1 ((1 : Half) <<< (1 - 1)) 1 0 = 1 ∧ reflectLoop 0x1021 16 ((1 : Half) <<< (16 - 1)) 1 0 = 0x8408 ∧
    reflectLoop 1 15 ((1 : Half) <<< (16 - 1)) 1 0 = 0 ∧ reflect 1 16 = 0x8000 := by decide

theorem witness_ReflectIsSelfInverse : reflect (reflect 0x1235 1) 1 = 1 ∧ reflect (reflect 0x1235 16) 16 = 0x1235 := by decide

theorem witness_ChecksumDetectsAnySingleByteChange :
    (if false then (0x1021 : Half).getLsbD 15 = true else (0x1021 : Half).getLsbD 0 = true) ∧
    (if true then (0xA001 : Half).getLsbD 15 = true else (0xA001 : Half).getLsbD 0 = true) ∧ (0x35 : Byte) ≠ 0x34 := by decide

/-- A buffer in the middle, an empty one at the null address, one that ends at the top of the address space. -/
theorem witness_CalcComputesTheChecksum :
    demo.CalcAccepted ∧ (st [] 0 0).CalcAccepted ∧ { st [] 0x1000 255 with ctrlLchk := true }.CalcAccepted ∧
    { st [] 0xFFFFFFFD 3 with params := { Params.reference with readable := [⟨0xFFFFFFFD, 3⟩] } }.CalcAccepted := by decide +kernel

/-- Section 2.6: LEN_RANGE, NULL_BUF, BUS_FAULT for a wrap, BUS_FAULT for the last byte. -/
theorem witness_CalcRecordsTheFirstErrorCondition :
    resultAfter .calcInit { st [] 0 256 with ctrlLchk := true, result := 0x1111 } = some (0x1111, 4) ∧
    resultAfter .calcSeed { st [] 0 3 with result := 0x1111 } = some (0x1111, 2) ∧
    resultAfter .calcInit { st [] 0xFFFFFFFE 3 with result := 0x1111 } = some (0x1111, 3) ∧
    resultAfter .calcSeed { st [] 0x2FFE 3 with result := 0x1111 } = some (0x1111, 3) := by decide +kernel

/-- LEN = 0 and LEN = 2^LEN_W, at the null address. -/
theorem witness_ZeroLengthBufferGivesInitXorMask :
    ((st [] 0 256).addr.toNat < 2 ^ (st [] 0 256).params.addrW ∧ (st [] 0 256).len.toNat % 2 ^ (st [] 0 256).params.lenW = 0 ∧
      (st [] 0 256).ctrlLchk = false) ∧
    (loadCfg (presetRow .usb) (st [] 0 0)).len = 0 ∧ sampleCfg (loadCfg (presetRow .usb) (st [] 0 0)) = presetRow .usb ∧
    sampleCfg (loadCfg (presetRow .ccittFalse) (st [] 0 0)) = presetRow .ccittFalse := by decide +kernel

theorem witness_FullWidthCounterNeverTruncates :
    (nextOf (exec .calcInit { demo with params := { Params.reference with lenW := 32 } })).isSome = true := by decide +kernel

theorem witness_ZeroPolynomialGivesTheOutputMask :
    { st mem505 0x1000 2 with poly := 0 }.CalcAccepted ∧ 2 ≤ (st mem505 0x1000 2).len.toNat % 2 ^ (st mem505 0x1000 2).params.lenW := by
  decide +kernel

theorem witness_SeededCalculationChainsBuffers :
    sampleCfg (st mem505 0x1000 2) = sampleCfg (st mem505 0x1002 1) ∧ sampleCfg (st mem505 0x1002 1) = sampleCfg demo ∧
    (st mem505 0x1000 2).HoldsBuffer [0x35, 0x30] ∧ (st mem505 0x1002 1).HoldsBuffer [0x35] ∧
    demo.HoldsBuffer ([0x35, 0x30] ++ [0x35]) := by decide +kernel

theorem witness_SeedEqualToInitGivesCalc : demo.seed = demo.init := by decide

theorem witness_CalcDependsOnItsInputsAlone :
    let other : State := { demo with seed := 7, result := 9, rflin := 1, rflout := 2, statusErr := 3, mem := (1, 1) :: mem505 }
    other ≠ demo ∧ sampleCfg demo = sampleCfg other ∧ demo.addr = other.addr ∧ demo.len = other.len ∧ demo.params = other.params ∧
    ∀ k < 3, Memory.read demo.mem (demo.addr.toNat + k) = Memory.read other.mem (other.addr.toNat + k) := by decide +kernel

theorem witness_EveryCommandIsIdempotent : (nextOf (exec .calcInit demo)).isSome = true := by decide +kernel

theorem witness_CommandsChangeOnlyTheirRegisters :
    (nextOf (exec .calcSeed demo)).isSome = true ∧ (nextOf (exec (.preset .usb) demo)).isSome = true := by decide +kernel

theorem witness_ErrorAbandonsItsCommand :
    (nextOf (execute 0x6 demo)).map State.statusErr = some 1 ∧ demo.statusErr ≠ 1 ∧ (0x6 : Word) ≠ 0x5 := by decide

theorem witness_FirstErrorIsKeptUntilClrerr :
    (nextOf (execute 0x6 { demo with statusErr := 2 })).map State.statusErr = some 2 := by decide

theorem witness_CommandsRunWhateverErrorIsRecorded : (nextOf (exec .calcInit demo)).isSome = true := by decide +kernel

/-- The bounds of ADDR_W, and each listed offset. -/
theorem witness_ReadAfterWriteClearsReservedBits :
    demo.params.addrW ≤ 32 ∧
    ([0x00, 0x04, 0x08, 0x0C, 0x10, 0x14, 0x18, 0x20].map (fun off =>
      ((nextOf (perform (.write off 4 0xFFFFFFFF) { demo with params := { Params.reference with addrW := 1 } })).bind
        (fun t => nextOf (perform (.read off 4) t))).map State.observed) =
      [some [0xFFFF], some [0xFFFF], some [0xFFFF], some [3], some [1], some [0xFFFFFFFF], some [0xFFFF], some [0xFFFF]]) := by
  decide

/-- A state whose window is not at 0, so that accesses can reach in from below. -/
def raised : State := { demo with params := { Params.reference with crcBase := 64 } }

/-- Every clause at an edge of the window: from below, past the end, off alignment, narrow, wide. -/
theorem witness_MisshapenWindowAccessIsRefused :
    ([(62, 4), (126, 4), (65, 4), (127, 1), (64, 8), (0, 65)].map (fun x => refusalOf (perform (.read x.1 x.2) raised)) =
      List.replicate 6 (some .windowAccess)) ∧
    ([(60, 4), (128, 4), (0, 64)].map (fun x => nextOf (perform (.write x.1 x.2 1) raised)) = List.replicate 3 (some raised)) := by
  decide

/-- Accesses that end just below the window or begin just past it, narrow and wide, aligned and not. -/
theorem witness_AccessOutsideTheWindowChangesNothing :
    ([(60, 4), (63, 1), (0, 64), (10, 3), (128, 4), (129, 2)].all (fun x =>
      (decide (x.1 < raised.params.crcBase) || decide (raised.params.crcBase + 64 ≤ x.1)) &&
        (List.range x.2).all (fun k =>
          decide (x.1 + k < raised.params.crcBase) || decide (raised.params.crcBase + 64 ≤ x.1 + k)))) = true := by decide

theorem witness_InstancesAreIndependent :
    demo.params.wf ∧ raised.params.wf ∧ demo.params.crcBase ≠ raised.params.crcBase ∧ 60 % 4 = 0 ∧ 64 % 4 = 0 := by decide

theorem witness_HostReadsHaveNoSideEffect :
    (nextOf (perform (.read 0x00 4) demo)).map State.observed = some [0x1021] ∧ nextOf (perform (.read 0x40 4) demo) = some demo := by
  decide

theorem witness_HostStoreIsSeenByLaterReads : 2 ^ 32 - 1 < 2 ^ demo.params.addrW ∧ Memory.wf demo.mem := by decide

theorem witness_RacingByteIsUnconstrained : 0x1001 < 2 ^ demo.params.addrW ∧ Memory.wf demo.mem := by decide

theorem witness_BlockNeverWritesMemory :
    Memory.wf demo.mem ∧ (nextOf (step (pend (.write 0x28 4 0x1) demo))).isSome = true ∧
    (nextOf (step (pend (.store 0x1000 1) demo))).isSome = true := by decide +kernel

theorem witness_ResetSetsEveryRegister : (pend .reset demo).pending = .reset :: [] := by decide

theorem witness_StepKeepsTheInvariant :
    demo.Inv ∧ (nextOf (step (pend (.write 0x10 4 0xFFFFFFFF) demo))).isSome = true := by decide +kernel

theorem witness_StepKeepsTheParameters : (nextOf (step (pend .reset demo))).isSome = true := by decide

theorem witness_ResultChangesOnlyByCalcOrReset :
    (nextOf (step (pend (.write 0x28 4 0x1) demo))).map State.result = some 0x4D36 ∧
    (nextOf (step (pend .reset { demo with result := 5 }))).map State.result = some 0 ∧
    (nextOf (step (pend (.write 0x28 4 0x2) (st [] 0 256)))).map State.statusTrunc = some true := by decide +kernel

theorem witness_RfloutChangesOnlyByReflectOrReset :
    (nextOf (step (pend (.write 0x28 4 0x3) { demo with rflin := 1 }))).map State.rflout = some 1 ∧
    (nextOf (step (pend .reset { demo with rflout := 5 }))).map State.rflout = some 0 := by decide

theorem witness_ErrChangesOnlyByErrorClrerrOrReset :
    (nextOf (step (pend (.write 0x28 4 0x6) demo))).map State.statusErr = some 1 ∧
    (nextOf (step (pend (.write 0x28 4 0x5) { demo with statusErr := 4 }))).map State.statusErr = some 0 ∧
    (nextOf (step (pend .reset { demo with statusErr := 4 }))).map State.statusErr = some 0 := by decide

theorem witness_OperandRegistersAreNeverWrittenByTheBlock :
    (nextOf (step (pend (.write 0x10 4 8) demo))).map State.addr = some 8 ∧
    (nextOf (step (pend (.write 0x14 4 8) demo))).map State.len = some 8 ∧
    (nextOf (step (pend (.write 0x18 4 8) demo))).map State.seed = some 8 ∧
    (nextOf (step (pend (.write 0x20 4 8) demo))).map State.rflin = some 8 := by decide

theorem witness_ConfigurationChangesOnlyByWritePresetOrReset :
    (nextOf (step (pend (.write 0x00 4 1) demo))).map State.poly = some 1 ∧
    (nextOf (step (pend (.write 0x04 4 1) demo))).map State.init = some 1 ∧
    (nextOf (step (pend (.write 0x08 4 1) demo))).map State.xorout = some 1 ∧
    (nextOf (step (pend (.write 0x0C 4 3) demo))).map (fun t => (t.ctrlRev, t.ctrlLchk)) = some (true, true) ∧
    (nextOf (step (pend (.write 0x28 4 0x304) demo))).map State.poly = some 0xA001 := by decide

end Sys2Proof.Tests
end

/-! ## The scope's statements: legal parameters for ever, and the counter of full width (00_scope.md R4, R5) -/

namespace Sys2Proof.Machine

/-! Commands: what each leaves alone, and what it can record -/

/-- Every command keeps the parameters, the buffer memory and ADDR (R4, R20, R38). -/
theorem exec_frame {i : Instr} {s t : State} (h : exec i s = .next t) :
    t.params = s.params ∧ t.mem = s.mem ∧ t.addr = s.addr := by
  rcases exec_cases h with ⟨-, rfl⟩ | ⟨-, r, b, rfl⟩ | ⟨-, e, rfl⟩ | ⟨bits, -, -, -, rfl⟩ | ⟨p, -, rfl⟩ | ⟨-, rfl⟩ <;> simp

/-- No command takes STATUS.ERR out of the codes 0 to 4 (R27). -/
theorem exec_statusErr_le {i : Instr} {s t : State} (hs : s.statusErr.toNat ≤ 4) (h : exec i s = .next t) :
    t.statusErr.toNat ≤ 4 := by
  rcases exec_cases h with ⟨-, rfl⟩ | ⟨-, r, b, rfl⟩ | ⟨-, e, rfl⟩ | ⟨bits, -, -, -, rfl⟩ | ⟨p, -, rfl⟩ | ⟨-, rfl⟩
  case inr.inr.inl => exact firstError_le hs e
  all_goals simp [hs]

/-- The word written to CMD keeps the parameters, the buffer memory and ADDR, legal or not (R56, R94). -/
theorem execute_frame {w : Word} {s t : State} (h : execute w s = .next t) :
    t.params = s.params ∧ t.mem = s.mem ∧ t.addr = s.addr := by
  rcases execute_cases w s with ⟨i, -, hi⟩ | ⟨e, -, he⟩
  · exact exec_frame (hi ▸ h)
  · cases he.symm.trans h
    simp

/-- The word written to CMD does not take STATUS.ERR out of the codes 0 to 4 (R27, R56). -/
theorem execute_statusErr_le {w : Word} {s t : State} (hs : s.statusErr.toNat ≤ 4) (h : execute w s = .next t) :
    t.statusErr.toNat ≤ 4 := by
  rcases execute_cases w s with ⟨i, -, hi⟩ | ⟨e, -, he⟩
  · exact exec_statusErr_le hs (hi ▸ h)
  · cases he.symm.trans h
    exact firstError_le hs .illegalCmd

/-! The parameters -/

/-- No outside event changes a parameter (R4). -/
theorem perform_params {e : HostEvent} {s t : State} (h : perform e s = .next t) : t.params = s.params := by
  rcases perform_cases h with rfl | ⟨a, w, -, -, hw⟩ | ⟨a, w, r, -, -, -, rfl⟩ | ⟨a, r, -, -, rfl⟩ | ⟨a, b, -, -, rfl⟩ |
    ⟨a, -, -, rfl⟩ | ⟨-, rfl⟩
  case inr.inl => exact (execute_frame hw).1
  all_goals simp

/-- Settles O52: an idle step changes nothing, and every outside event keeps the parameters. -/
theorem stepKeepsTheParameters : Obligations.StepKeepsTheParameters := by
  intro s t h
  rcases step_cases s with ⟨-, hidle⟩ | ⟨e, rest, -, hstep⟩
  · cases hidle.symm.trans h
    rfl
  · exact perform_params (s := { s with pending := rest }) (hstep.symm.trans h)

/-! The invariant -/

/-- The invariant speaks of the parameters, the memory, ADDR and STATUS.ERR alone. -/
theorem State.Inv.of_frame {s t : State} (hs : s.Inv) (hframe : t.params = s.params ∧ t.mem = s.mem ∧ t.addr = s.addr)
    (herr : t.statusErr.toNat ≤ 4) : t.Inv := by
  obtain ⟨hp, hm, ha⟩ := hframe
  obtain ⟨hwf, hmem, hcells, haddr, -⟩ := hs
  exact ⟨hp ▸ hwf, hm ▸ hmem, by rw [hp, hm]; exact hcells, by rw [hp, ha]; exact haddr, herr⟩

/-- A memory whose cells lie below a bound still does after a write below it (R37). -/
theorem Memory.write_lt {m : List Host.Cell} {n a : Nat} (hm : ∀ c ∈ m, c.1 < n) (ha : a < n) (b : Byte) :
    ∀ c ∈ Memory.write m a b, c.1 < n := fun c hc => by
  rcases Memory.mem_write hc with rfl | hc
  · exact ha
  · exact hm c hc

/-- A register write keeps the invariant: ADDR takes only its ADDR_W low bits (R20, R90). -/
theorem writeReg_inv {s : State} (hs : s.Inv) (r : Reg) (w : Word) : (writeReg r w s).Inv := by
  obtain ⟨hwf, hmem, hcells, haddr, herr⟩ := hs
  refine ⟨by simpa using hwf, by simpa using hmem, by simpa using hcells, ?_, by simpa using herr⟩
  rw [writeReg_addr, writeReg_params]
  split
  · exact addrField_lt _ w
  · exact haddr

/-- A byte of the address space that takes a value from outside keeps the invariant (R37, R49(b)). -/
theorem putByte_inv {s : State} (hs : s.Inv) {a : Nat} (ha : a < 2 ^ s.params.addrW) (b : Byte) :
    (putByte a b s).Inv := by
  obtain ⟨hwf, hmem, hcells, haddr, herr⟩ := hs
  exact ⟨hwf, Memory.write_wf hmem a b, Memory.write_lt hcells ha b, haddr, herr⟩

/-- A reset keeps the invariant: ADDR and STATUS.ERR become 0, memory and the parameters stay (R116). -/
theorem resetRegisters_inv {s : State} (hs : s.Inv) : (resetRegisters s).Inv := by
  obtain ⟨hwf, hmem, hcells, -, -⟩ := hs
  exact ⟨hwf, hmem, hcells, Nat.two_pow_pos _, Nat.zero_le _⟩

/-- Every outside event keeps the invariant. -/
theorem perform_inv {e : HostEvent} {s t : State} (hs : s.Inv) (h : perform e s = .next t) : t.Inv := by
  have ⟨_, _, _, _, herr⟩ := hs
  rcases perform_cases h with rfl | ⟨a, w, -, -, hw⟩ | ⟨a, w, r, -, -, -, rfl⟩ | ⟨a, r, -, -, rfl⟩ | ⟨a, b, -, ha, rfl⟩ |
    ⟨a, -, ha, rfl⟩ | ⟨-, rfl⟩
  · exact hs
  · exact hs.of_frame (execute_frame hw) (execute_statusErr_le herr hw)
  · exact writeReg_inv hs r w
  · exact hs
  · exact putByte_inv hs ha b
  · exact putByte_inv hs ha (Config.freeByte s.draws)
  · exact resetRegisters_inv hs

/-- Settles O51: the invariant does not speak of the queue, an idle step changes nothing, and every outside event keeps
it. -/
theorem stepKeepsTheInvariant : Obligations.StepKeepsTheInvariant := by
  intro s t hs h
  rcases step_cases s with ⟨-, hidle⟩ | ⟨e, rest, -, hstep⟩
  · cases hidle.symm.trans h
    exact hs
  · exact perform_inv (s := { s with pending := rest }) hs (hstep.symm.trans h)

/-! The length counter -/

/-- A length that fits the counter passes the narrowing whole, for either LCHK (R74). -/
theorem narrow_of_lt {lenW : Nat} {len : Word} (h : len.toNat < 2 ^ lenW) (lchk : Bool) :
    narrow lenW len lchk = .ok (len.toNat, false) := by
  have hfits : ¬2 ^ lenW ≤ len.toNat := Nat.not_le_of_lt h
  simp [narrow_eq, hfits, Nat.mod_eq_of_lt h]

/-- The truncation flag of a CalcCore that completes says that LEN did not fit the counter (R75). -/
theorem calcCore_ok_trunc {start r : Half} {trunc : Bool} {s : State} (h : calcCore start s = .ok (r, trunc)) :
    trunc = decide (2 ^ s.params.lenW ≤ s.len.toNat) := by
  rw [calcCore_eq] at h
  split_ifs at h
  cases h
  rfl

/-- CalcCore answers LEN_RANGE only for a LEN that does not fit the counter (R74, R101). -/
theorem calcCore_error_lenRange {start : Half} {s : State} (h : calcCore start s = .error .lenRange) :
    2 ^ s.params.lenW ≤ s.len.toNat := by
  rw [calcCore_eq] at h
  split_ifs at h with hrange
  · exact hrange.2
  all_goals cases h

/-- The code of LEN_RANGE is its own (R101). -/
theorem ErrCode.code_eq_four_iff (e : ErrCode) : e.code = 4 ↔ e = .lenRange := by cases e <;> decide

/-- Another error does not record LEN_RANGE (R103). -/
theorem firstError_eq_four {x : BitVec 4} {e : ErrCode} (he : e ≠ .lenRange) (h : firstError x e.code = 4) : x = 4 := by
  unfold firstError at h
  split at h
  · exact absurd (e.code_eq_four_iff.mp h) he
  · exact h

/-- Where LEN fits the counter, CalcCore's register writes neither set TRUNC nor record LEN_RANGE. -/
theorem runCalc_of_len_lt {start : Half} {s t : State} (hlen : s.len.toNat < 2 ^ s.params.lenW)
    (h : runCalc start s = .next t) :
    (t.statusTrunc = true → s.statusTrunc = true) ∧ (t.statusErr = 4 → s.statusErr = 4) := by
  rcases runCalc_cases start s with ⟨r, trunc, hcore, hrun⟩ | ⟨e, hcore, hrun⟩
  · cases hrun.symm.trans h
    have htrunc : trunc = false := by
      rw [calcCore_ok_trunc hcore]
      exact decide_eq_false (Nat.not_le_of_lt hlen)
    simp [htrunc]
  · cases hrun.symm.trans h
    have he : e ≠ .lenRange := by
      rintro rfl
      exact Nat.not_le_of_lt hlen (calcCore_error_lenRange hcore)
    exact ⟨id, firstError_eq_four he⟩

/-- Settles O29: a 32-bit LEN always fits a 32-bit counter. -/
theorem fullWidthCounterNeverTruncates : Obligations.FullWidthCounterNeverTruncates := by
  intro s t i hw hi h
  have hlen : s.len.toNat < 2 ^ s.params.lenW := by
    rw [hw]
    exact s.len.isLt
  refine ⟨narrow_of_lt hlen, ?_⟩
  rcases hi with rfl | rfl
  · exact runCalc_of_len_lt (start := s.init) hlen h
  · exact runCalc_of_len_lt (start := s.seed) hlen h

end Sys2Proof.Machine

/-! ## The state's statements: the step, reset, the window's bounds, and what each register changes by (10_state.md) -/

namespace Sys2Proof.Machine

/-! The step -/

/-- Settles O8: the step looks at the head of the queue. -/
theorem stepPerformsTheOldestEvent : Obligations.StepPerformsTheOldestEvent := by
  refine ⟨fun s e rest hp => ?_, fun s hp => ?_⟩
  · simp only [step, hp]
  · simp only [step, hp]

/-! The reset state -/

/-- Settles O49: after reset LEN is 0, so CALC reads no byte and stores INIT XOR XOROUT, which is 0. -/
theorem calcRightAfterResetGivesZero : Obligations.CalcRightAfterResetGivesZero :=
  ⟨rfl, rfl, rfl, rfl, rfl, rfl, rfl, rfl, rfl, rfl, rfl, rfl, rfl, setResult 0 false State.reset, rfl, rfl, rfl, rfl⟩

/-- Settles O50: the reference parameters are legal, memory lists no byte, and ADDR and STATUS.ERR are 0. -/
theorem resetMeetsTheInvariant : Obligations.ResetMeetsTheInvariant := by
  have hparams : State.reset.params.wf := by decide
  have hmem : Memory.wf State.reset.mem := ⟨.nil, by simp [State.reset]⟩
  exact ⟨hparams, hmem, by simp [State.reset], Nat.two_pow_pos _, Nat.zero_le _⟩

/-! The bounds of the window -/

theorem outsideWindow_iff (base a n : Nat) :
    outsideWindow base a n = true ↔ base + 64 ≤ a ∨ (a < base ∧ a + n ≤ base) := by
  simp [outsideWindow]

theorem perform_write_of_outside {s : State} {a n : Nat} (h : outsideWindow s.params.crcBase a n = true) (w : Word) :
    perform (.write a n w) s = .next s := by
  simp only [perform, busWrite, h, if_true]

theorem perform_read_of_outside {s : State} {a n : Nat} (h : outsideWindow s.params.crcBase a n = true) :
    perform (.read a n) s = .next s := by
  simp only [perform, busRead, h, if_true]

/-- Settles O58: an access that begins below the window and has no byte in it ends below it, for its byte at CRC_BASE
would be in the window. -/
theorem accessOutsideTheWindowChangesNothing : Obligations.AccessOutsideTheWindowChangesNothing := by
  intro s a n w hstart hbytes
  have hout : outsideWindow s.params.crcBase a n = true := by
    rw [outsideWindow_iff]
    rcases hstart with hbelow | habove
    · have hend : ¬s.params.crcBase - a < n := fun hlt => by
        have hbyte := hbytes (s.params.crcBase - a) hlt
        omega
      omega
    · exact .inl habove
  exact ⟨perform_write_of_outside hout w, perform_read_of_outside hout⟩

/-- Two different windows at 64-byte aligned bases share no aligned 32-bit access (R4, R33). -/
theorem outsideWindow_of_base_ne {b b' a : Nat} (hb : b % 64 = 0) (hb' : b' % 64 = 0) (hne : b ≠ b') (ha : a % 4 = 0) :
    outsideWindow b a 4 = true ∨ outsideWindow b' a 4 = true := by
  rw [outsideWindow_iff, outsideWindow_iff]
  omega

/-- Settles O43: the access lies outside at least one of the two windows. -/
theorem instancesAreIndependent : Obligations.InstancesAreIndependent := by
  intro s t a w ⟨_, _, _, _, hs⟩ ⟨_, _, _, _, ht⟩ hne ha
  rcases outsideWindow_of_base_ne hs ht hne ha with hout | hout
  · exact ⟨.inl (perform_write_of_outside hout w), .inl (perform_read_of_outside hout)⟩
  · exact ⟨.inr (perform_write_of_outside hout w), .inr (perform_read_of_outside hout)⟩

/-! Command words without operands -/

/-- A word that decodes is selected by a row of R52's table, and its operation and operands are that row's. -/
theorem decode_ok_row {w : Word} {i : Instr} (h : decode w = .ok i) :
    ∃ row ∈ opRows, w &&& row.mask = row.pattern ∧ assemble row.op w = i := by
  unfold decode at h
  split at h
  · rename_i row hrow
    exact ⟨row, List.mem_of_find?_eq_some hrow, by simpa [OpRow.selects] using List.find?_some hrow, by simpa using h⟩
  · cases h

/-- A command without operands has one word only: its row's mask covers every bit (R52, R54). -/
theorem eq_encode_of_decode {w : Word} {i : Instr} (h : decode w = .ok i) (hreflect : ∀ bits, i ≠ .reflect bits)
    (hpreset : ∀ p, i ≠ .preset p) : w = encode i := by
  have hones : w &&& 0xFFFFFFFF#32 = w := BitVec.and_allOnes
  obtain ⟨row, hrow, hsel, rfl⟩ := decode_ok_row h
  simp only [opRows, List.mem_cons, List.not_mem_nil, or_false] at hrow
  rcases hrow with rfl | rfl | rfl | rfl | rfl | rfl
  case inr.inr.inr.inl => exact absurd rfl (hreflect _)
  case inr.inr.inr.inr.inl => exact absurd rfl (hpreset _)
  all_goals simpa [hones, assemble, encode, argument, opcode] using hsel

/-! What changes a register -/

/-- What a word written to CMD can do, by the word: `exec_cases` with ILLEGAL_CMD among the errors (R56, R94). -/
theorem execute_next_cases {w : Word} {s t : State} (h : execute w s = .next t) :
    t = s ∨
      ((w = 0x00000001 ∨ w = 0x00000002) ∧ ∃ r b, t = setResult r b s) ∨
      (∃ e, t = raiseError e s) ∨
      (∃ bits, decode w = .ok (.reflect bits) ∧ t = setRflout (reflect s.rflin bits) s) ∨
      (∃ p, decode w = .ok (.preset p) ∧ t = loadCfg (presetRow p) s) ∨
      (w = 0x00000005 ∧ t = clearError s) := by
  rcases execute_cases w s with ⟨i, hw, hi⟩ | ⟨-, -, herr⟩
  · rcases exec_cases (hi ▸ h) with ⟨-, rfl⟩ | ⟨hcalc, hres⟩ | ⟨-, herr⟩ | ⟨bits, rfl, -, -, rfl⟩ | ⟨p, rfl, rfl⟩ |
      ⟨rfl, rfl⟩
    · exact .inl rfl
    · refine .inr (.inl ⟨?_, hres⟩)
      rcases hcalc with rfl | rfl
      · exact .inl (eq_encode_of_decode hw nofun nofun)
      · exact .inr (eq_encode_of_decode hw nofun nofun)
    · exact .inr (.inr (.inl herr))
    · exact .inr (.inr (.inr (.inl ⟨bits, hw, rfl⟩)))
    · exact .inr (.inr (.inr (.inr (.inl ⟨p, hw, rfl⟩))))
    · exact .inr (.inr (.inr (.inr (.inr ⟨eq_encode_of_decode hw nofun nofun, rfl⟩))))
  · cases herr.symm.trans h
    exact .inr (.inr (.inl ⟨.illegalCmd, rfl⟩))

/-- The converse of `regAt_regOffset`: a register is reached at its own offset only (R59). -/
theorem eq_regOffset_of_regAt {off : Nat} {r : Reg} (h : regAt off = some r) : off = regOffset r := by
  unfold regAt at h
  split at h
  · rename_i halign
    have hindex : off / 4 = regOffset r / 4 := by
      unfold regOfIndex at h
      split at h <;> cases h <;> assumption
    have hr : regOffset r % 4 = 0 := by cases r <;> rfl
    omega
  · cases h

/-- The converse of `windowReg_offset`. -/
theorem eq_offset_of_windowReg {base a n : Nat} {r : Reg} (h : windowReg base a n = some r) : a = base + regOffset r := by
  unfold windowReg at h
  split at h
  · rename_i hfits
    have hoff := eq_regOffset_of_regAt h
    omega
  · cases h

/-- What an outside event can do to the registers: nothing, one host write of a register, the word of a CMD write, or
reset. -/
theorem perform_register_cases {e : HostEvent} {s t : State} (h : perform e s = .next t) :
    t = { s with mem := t.mem, observed := t.observed, draws := t.draws } ∨
      (∃ r w, e = .write (s.params.crcBase + regOffset r) 4 w ∧ t = writeReg r w s) ∨
      (∃ w, e = .write (s.params.crcBase + regOffset .cmd) 4 w ∧ execute w s = .next t) ∨
      (e = .reset ∧ t = resetRegisters s) := by
  rcases perform_cases h with rfl | ⟨a, w, rfl, ha, hw⟩ | ⟨a, w, r, rfl, ha, -, rfl⟩ | ⟨a, r, -, -, rfl⟩ |
    ⟨a, b, -, -, rfl⟩ | ⟨a, -, -, rfl⟩ | ⟨rfl, rfl⟩
  case inr.inl => exact .inr (.inr (.inl ⟨w, eq_offset_of_windowReg ha ▸ rfl, hw⟩))
  case inr.inr.inl => exact .inr (.inl ⟨r, w, eq_offset_of_windowReg ha ▸ rfl, rfl⟩)
  case inr.inr.inr.inr.inr.inr => exact .inr (.inr (.inr ⟨rfl, rfl⟩))
  all_goals exact .inl rfl

/-- What a step can do to the registers: `perform_register_cases` for the oldest event, and nothing where none is
pending. -/
theorem step_register_cases {s t : State} (h : step s = .next t) :
    t = { s with mem := t.mem, pending := t.pending, observed := t.observed, draws := t.draws } ∨
      (∃ r w rest, s.pending = .write (s.params.crcBase + regOffset r) 4 w :: rest ∧
        t = writeReg r w { s with pending := rest }) ∨
      (∃ w rest, s.pending = .write (s.params.crcBase + regOffset .cmd) 4 w :: rest ∧
        execute w { s with pending := rest } = .next t) ∨
      ∃ rest, s.pending = .reset :: rest ∧ t = resetRegisters { s with pending := rest } := by
  rcases step_cases s with ⟨-, hidle⟩ | ⟨e, rest, hp, hstep⟩
  · cases hidle.symm.trans h
    exact .inl rfl
  · rcases perform_register_cases (hstep.symm.trans h) with hsame | ⟨r, w, rfl, ht⟩ | ⟨w, rfl, hw⟩ | ⟨rfl, ht⟩
    · exact .inl (hsame.trans (by rw [hsame]))
    · exact .inr (.inl ⟨r, w, rest, hp, ht⟩)
    · exact .inr (.inr (.inl ⟨w, rest, hp, hw⟩))
    · exact .inr (.inr (.inr ⟨rest, hp, ht⟩))

/-! RESULT, TRUNC, RFLOUT and ERR: the registers only commands write -/

/-- The registers the host cannot write change only by the word of a CMD write or by a reset (R93). -/
theorem step_result_register_cases {s t : State} (h : step s = .next t) :
    (t.result = s.result ∧ t.statusTrunc = s.statusTrunc ∧ t.rflout = s.rflout ∧ t.statusErr = s.statusErr) ∨
      (∃ w rest, s.pending = .write (s.params.crcBase + regOffset .cmd) 4 w :: rest ∧
        execute w { s with pending := rest } = .next t) ∨
      ∃ rest, s.pending = .reset :: rest ∧ t = resetRegisters { s with pending := rest } := by
  rcases step_register_cases h with hsame | ⟨r, w, rest, -, rfl⟩ | hcmd | hreset
  · rw [hsame]
    exact .inl ⟨rfl, rfl, rfl, rfl⟩
  · exact .inl (by simp)
  · exact .inr (.inl hcmd)
  · exact .inr (.inr hreset)

/-- Of the words written to CMD only those of CALC and CALCS, where they complete, change RESULT or TRUNC (R24, R28). -/
theorem execute_result_change {w : Word} {s t : State} (h : execute w s = .next t)
    (hne : t.result ≠ s.result ∨ t.statusTrunc ≠ s.statusTrunc) :
    (w = 0x00000001 ∨ w = 0x00000002) ∧ t = { s with result := t.result, statusTrunc := t.statusTrunc } := by
  rcases execute_next_cases h with rfl | ⟨hcalc, r, b, rfl⟩ | ⟨e, rfl⟩ | ⟨bits, -, rfl⟩ | ⟨p, -, rfl⟩ | ⟨-, rfl⟩
  case inr.inl => exact ⟨hcalc, rfl⟩
  all_goals simp at hne

/-- Of the words written to CMD only REFLECT's change RFLOUT (R25). -/
theorem execute_rflout_change {w : Word} {s t : State} (h : execute w s = .next t) (hne : t.rflout ≠ s.rflout) :
    (∃ bits, decode w = .ok (.reflect bits)) ∧ t = { s with rflout := t.rflout } := by
  rcases execute_next_cases h with rfl | ⟨-, r, b, rfl⟩ | ⟨e, rfl⟩ | ⟨bits, hreflect, rfl⟩ | ⟨p, -, rfl⟩ | ⟨-, rfl⟩
  case inr.inr.inr.inl => exact ⟨⟨bits, hreflect⟩, rfl⟩
  all_goals simp at hne

/-- An error that changes STATUS.ERR finds it 0 and stores its code (R103). -/
theorem firstError_ne {x c : BitVec 4} (h : firstError x c ≠ x) : x = 0 ∧ firstError x c = c := by
  have hx : x = 0 := by
    by_contra hx
    exact h (firstError_of_ne hx c)
  exact ⟨hx, hx ▸ firstError_of_zero c⟩

theorem ErrCode.one_le_code (e : ErrCode) : 1 ≤ e.code.toNat := by cases e <;> decide

/-- Of the words written to CMD CLRERR's clears ERR, and another changes it only by recording the first error (R27). -/
theorem execute_statusErr_change {w : Word} {s t : State} (h : execute w s = .next t) (hne : t.statusErr ≠ s.statusErr) :
    (w = 0x00000005 ∧ t.statusErr = 0) ∨ (s.statusErr = 0 ∧ 1 ≤ t.statusErr.toNat ∧ t.statusErr.toNat ≤ 4) := by
  rcases execute_next_cases h with rfl | ⟨-, r, b, rfl⟩ | ⟨e, rfl⟩ | ⟨bits, -, rfl⟩ | ⟨p, -, rfl⟩ | ⟨hclr, rfl⟩
  case inr.inr.inl =>
    obtain ⟨hzero, hcode⟩ := firstError_ne hne
    rw [raiseError_statusErr, hcode]
    exact .inr ⟨hzero, e.one_le_code, e.code_le⟩
  case inr.inr.inr.inr.inr => exact .inl ⟨hclr, rfl⟩
  all_goals simp at hne

/-- Settles O53: the host cannot write RESULT or TRUNC, so `execute_result_change` names the word. -/
theorem resultChangesOnlyByCalcOrReset : Obligations.ResultChangesOnlyByCalcOrReset := by
  intro s t h hne
  rcases step_result_register_cases h with ⟨hresult, htrunc, -, -⟩ | ⟨w, rest, hp, hw⟩ | ⟨rest, hp, -⟩
  · exact absurd hne (by simp [hresult, htrunc])
  · obtain ⟨hword, ht⟩ := execute_result_change hw hne
    exact ⟨_, rest, hp, .inr ⟨hword.imp (congrArg _) (congrArg _), ht⟩⟩
  · exact ⟨_, rest, hp, .inl rfl⟩

/-- Settles O54: the host cannot write RFLOUT, so `execute_rflout_change` names the word. -/
theorem rfloutChangesOnlyByReflectOrReset : Obligations.RfloutChangesOnlyByReflectOrReset := by
  intro s t h hne
  rcases step_result_register_cases h with ⟨-, -, hrflout, -⟩ | ⟨w, rest, hp, hw⟩ | ⟨rest, hp, -⟩
  · exact absurd hrflout hne
  · obtain ⟨⟨bits, hreflect⟩, ht⟩ := execute_rflout_change hw hne
    exact ⟨_, rest, hp, .inr ⟨w, bits, rfl, hreflect, ht⟩⟩
  · exact ⟨_, rest, hp, .inl rfl⟩

/-- Settles O55: the host cannot write STATUS, and `execute_statusErr_change` says what a command word does to ERR. -/
theorem errChangesOnlyByErrorClrerrOrReset : Obligations.ErrChangesOnlyByErrorClrerrOrReset := by
  intro s t h hne
  rcases step_result_register_cases h with ⟨-, -, -, herr⟩ | ⟨w, rest, hp, hw⟩ | ⟨rest, hp, rfl⟩
  · exact absurd herr hne
  · exact ⟨_, rest, hp, .inr ⟨w, rfl, execute_statusErr_change (s := { s with pending := rest }) hw hne⟩⟩
  · exact ⟨_, rest, hp, .inl ⟨rfl, rfl⟩⟩

/-! The registers the host writes -/

theorem writeReg_poly (r : Reg) (w : Word) (s : State) :
    (writeReg r w s).poly = if r = .poly then halfField w else s.poly := by cases r <;> rfl
theorem writeReg_init (r : Reg) (w : Word) (s : State) :
    (writeReg r w s).init = if r = .init then halfField w else s.init := by cases r <;> rfl
theorem writeReg_xorout (r : Reg) (w : Word) (s : State) :
    (writeReg r w s).xorout = if r = .xorout then halfField w else s.xorout := by cases r <;> rfl
theorem writeReg_ctrlRev (r : Reg) (w : Word) (s : State) :
    (writeReg r w s).ctrlRev = if r = .ctrl then w.getLsbD 0 else s.ctrlRev := by cases r <;> rfl
theorem writeReg_ctrlLchk (r : Reg) (w : Word) (s : State) :
    (writeReg r w s).ctrlLchk = if r = .ctrl then w.getLsbD 1 else s.ctrlLchk := by cases r <;> rfl
theorem writeReg_len (r : Reg) (w : Word) (s : State) :
    (writeReg r w s).len = if r = .len then w else s.len := by cases r <;> rfl
theorem writeReg_seed (r : Reg) (w : Word) (s : State) :
    (writeReg r w s).seed = if r = .seed then halfField w else s.seed := by cases r <;> rfl
theorem writeReg_rflin (r : Reg) (w : Word) (s : State) :
    (writeReg r w s).rflin = if r = .rflin then halfField w else s.rflin := by cases r <;> rfl

/-- No word written to CMD changes an operand register or CTRL.LCHK (R18, R20 to R23). -/
theorem execute_operands {w : Word} {s t : State} (h : execute w s = .next t) :
    t.addr = s.addr ∧ t.len = s.len ∧ t.seed = s.seed ∧ t.rflin = s.rflin ∧ t.ctrlLchk = s.ctrlLchk := by
  rcases execute_next_cases h with rfl | ⟨-, r, b, rfl⟩ | ⟨e, rfl⟩ | ⟨bits, -, rfl⟩ | ⟨p, -, rfl⟩ | ⟨-, rfl⟩ <;> simp

/-- Of the words written to CMD only PRESET's change the configuration tuple (R15 to R18). -/
theorem execute_cfg {w : Word} {s t : State} (h : execute w s = .next t) :
    (t.poly = s.poly ∧ t.init = s.init ∧ t.xorout = s.xorout ∧ t.ctrlRev = s.ctrlRev) ∨
      ∃ p, decode w = .ok (.preset p) := by
  rcases execute_next_cases h with rfl | ⟨-, r, b, rfl⟩ | ⟨e, rfl⟩ | ⟨bits, -, rfl⟩ | ⟨p, hpreset, rfl⟩ | ⟨-, rfl⟩
  case inr.inr.inr.inr.inl => exact .inr ⟨p, hpreset⟩
  all_goals exact .inl (by simp)

/-- Settles O56: a register write changes only the register at its offset, and no command word an operand register. -/
theorem operandRegistersAreNeverWrittenByTheBlock : Obligations.OperandRegistersAreNeverWrittenByTheBlock := by
  intro s t h hreset
  rcases step_register_cases h with hsame | ⟨r, w, rest, hp, rfl⟩ | ⟨w, rest, -, hw⟩ | ⟨rest, hp, -⟩
  · rw [hsame]
    simp
  · simp only [writeReg_addr, writeReg_len, writeReg_seed, writeReg_rflin, ne_eq, ite_eq_right_iff, Classical.not_imp]
    refine ⟨?_, ?_, ?_, ?_⟩ <;>
    · rintro ⟨rfl, -⟩
      exact ⟨w, rest, hp⟩
  · obtain ⟨haddr, hlen, hseed, hrflin, -⟩ := execute_operands hw
    exact ⟨absurd haddr, absurd hlen, absurd hseed, absurd hrflin⟩
  · exact absurd hp (hreset rest)

/-- Settles O57: a register write changes only the register at its offset, no command word changes LCHK, and only PRESET's
change the rest of the configuration. -/
theorem configurationChangesOnlyByWritePresetOrReset : Obligations.ConfigurationChangesOnlyByWritePresetOrReset := by
  intro s t h hreset written preset
  rcases step_register_cases h with hsame | ⟨r, w, rest, hp, rfl⟩ | ⟨w, rest, hp, hw⟩ | ⟨rest, hp, -⟩
  · rw [hsame]
    simp
  · have hwritten : written (regOffset r) := ⟨w, rest, hp⟩
    simp only [writeReg_poly, writeReg_init, writeReg_xorout, writeReg_ctrlRev, writeReg_ctrlLchk, ne_eq,
      ite_eq_right_iff, Classical.not_imp]
    refine ⟨?_, ?_, ?_, ?_, ?_⟩ <;> rintro ⟨rfl, -⟩
    case refine_5 => exact hwritten
    all_goals exact .inl hwritten
  · obtain ⟨-, -, -, -, hlchk⟩ := execute_operands hw
    rcases execute_cfg hw with ⟨hpoly, hinit, hxorout, hrev⟩ | ⟨p, hdecode⟩
    · exact ⟨absurd hpoly, absurd hinit, absurd hxorout, absurd hrev, absurd hlchk⟩
    · have hpreset : preset := ⟨w, p, rest, hp, hdecode⟩
      exact ⟨fun _ => .inr hpreset, fun _ => .inr hpreset, fun _ => .inr hpreset, fun _ => .inr hpreset, absurd hlchk⟩
  · exact absurd hp (hreset rest)

end Sys2Proof.Machine

/-! ## The memory's statements: where a step stops, host reads, host stores and racing bytes (20_memory.md) -/

namespace Sys2Proof.Machine

/-! The shapes of a window access -/

/-- Every index of the window names a register (R59). -/
theorem exists_regOfIndex {k : Nat} (h : k < 16) : ∃ r, regOfIndex k = some r := by
  interval_cases k <;> exact ⟨_, rfl⟩

/-- Every multiple of 4 in the window is the offset of a register (R13, R59). -/
theorem exists_regOffset {off : Nat} (hlt : off < 64) (halign : off % 4 = 0) : ∃ r, off = regOffset r := by
  obtain ⟨r, hr⟩ := exists_regOfIndex (k := off / 4) (by omega)
  exact ⟨r, eq_regOffset_of_regAt (by simp only [regAt, halign, if_true, hr])⟩

/-- An access that begins in the window or has a byte in it, and is not 32 bits wide at an offset that is a multiple of 4
(R44). -/
def MisshapenAccess (base a n : Nat) : Prop :=
  a < base + 64 ∧ (base ≤ a ∨ base < a + n) ∧ ¬(n = 4 ∧ base ≤ a ∧ (a - base) % 4 = 0)

theorem MisshapenAccess.not_outside {base a n : Nat} (h : MisshapenAccess base a n) : outsideWindow base a n = false := by
  obtain ⟨hlt, htouch, -⟩ := h
  rw [← Bool.not_eq_true, outsideWindow_iff]
  omega

theorem MisshapenAccess.windowReg_eq_none {base a n : Nat} (h : MisshapenAccess base a n) : windowReg base a n = none := by
  obtain ⟨-, -, hshape⟩ := h
  unfold windowReg
  split
  · rename_i hfits
    exact if_neg fun halign => hshape ⟨hfits.1, hfits.2, halign⟩
  · rfl

/-- An access lies outside the window, reaches one register, or is misshapen (R33, R44). -/
theorem access_cases (base a n : Nat) :
    outsideWindow base a n = true ∨ (∃ r, n = 4 ∧ a = base + regOffset r) ∨ MisshapenAccess base a n := by
  by_cases hshape : a < base + 64 ∧ n = 4 ∧ base ≤ a ∧ (a - base) % 4 = 0
  · obtain ⟨hlt, hn, hle, halign⟩ := hshape
    obtain ⟨r, hr⟩ := exists_regOffset (by omega) halign
    exact .inr (.inl ⟨r, hn, by omega⟩)
  · rw [outsideWindow_iff, MisshapenAccess]
    omega

theorem perform_write_offset (s : State) (r : Reg) (w : Word) :
    perform (.write (s.params.crcBase + regOffset r) 4 w) s = hostWrite r w s := by
  simp [perform, busWrite]

theorem perform_read_offset (s : State) (r : Reg) :
    perform (.read (s.params.crcBase + regOffset r) 4) s = .next (observe (readReg r s) s) := by
  simp [perform, busRead, hostRead]

theorem perform_write_of_misshapen {s : State} {a n : Nat} (h : MisshapenAccess s.params.crcBase a n) (w : Word) :
    perform (.write a n w) s = .refused .windowAccess := by
  simp [perform, busWrite, h.not_outside, h.windowReg_eq_none]

theorem perform_read_of_misshapen {s : State} {a n : Nat} (h : MisshapenAccess s.params.crcBase a n) :
    perform (.read a n) s = .refused .windowAccess := by
  simp [perform, busRead, h.not_outside, h.windowReg_eq_none]

/-- Settles O42: the premises say that the access is misshapen. -/
theorem misshapenWindowAccessIsRefused : Obligations.MisshapenWindowAccessIsRefused := by
  intro s a n w hlt hbyte hshape
  have hmis : MisshapenAccess s.params.crcBase a n := ⟨hlt, .inr hbyte, by omega⟩
  exact ⟨perform_write_of_misshapen hmis w, perform_read_of_misshapen hmis⟩

/-! Host reads -/

/-- No register holds the host's log (R46, R99). -/
@[simp] theorem readReg_observe (r : Reg) (v : Word) (s : State) : readReg r (observe v s) = readReg r s := by
  cases r <;> rfl

/-- Settles O44: a read that reaches a register logs its value, which the log does not change; a read outside the window
logs nothing. -/
theorem hostReadsHaveNoSideEffect : Obligations.HostReadsHaveNoSideEffect := by
  intro s t a n h
  rcases access_cases s.params.crcBase a n with hout | ⟨r, rfl, rfl⟩ | hmis
  · cases (perform_read_of_outside hout).symm.trans h
    exact ⟨rfl, [], by simp, s, h, by simp⟩
  · cases (perform_read_offset s r).symm.trans h
    exact ⟨rfl, [readReg r s], rfl, _, perform_read_offset (observe (readReg r s) s) r, by simp⟩
  · cases (perform_read_of_misshapen hmis).symm.trans h

/-! Bytes changed from outside -/

theorem perform_store_of_lt {s : State} {a : Nat} (h : a < 2 ^ s.params.addrW) (b : Byte) :
    perform (.store a b) s = .next (putByte a b s) := if_pos h

theorem perform_race_of_lt {s : State} {a : Nat} (h : a < 2 ^ s.params.addrW) :
    perform (.race a) s = .next (drawByte a s) := if_pos h

theorem perform_store_of_le {s : State} {a : Nat} (h : 2 ^ s.params.addrW ≤ a) (b : Byte) :
    perform (.store a b) s = .fault (.noBufferAddress a) := if_neg (Nat.not_lt_of_le h)

theorem perform_race_of_le {s : State} {a : Nat} (h : 2 ^ s.params.addrW ≤ a) :
    perform (.race a) s = .fault (.noBufferAddress a) := if_neg (Nat.not_lt_of_le h)

theorem Memory.read_write_same {m : List Host.Cell} (hm : Memory.wf m) (a : Nat) (b : Byte) :
    Memory.read (Memory.write m a b) a = b := by
  rw [Memory.read_write hm, if_pos rfl]

theorem Memory.read_write_of_ne {m : List Host.Cell} (hm : Memory.wf m) {a x : Nat} (b : Byte) (hx : x ≠ a) :
    Memory.read (Memory.write m a b) x = Memory.read m x := by
  rw [Memory.read_write hm, if_neg hx]

/-- Settles O45: the store writes its byte to a canonical memory. -/
theorem hostStoreIsSeenByLaterReads : Obligations.HostStoreIsSeenByLaterReads := by
  intro s a b ha hm
  exact ⟨_, perform_store_of_lt ha b, Memory.write_wf hm a b, Memory.read_write_same hm a b,
    fun _ => Memory.read_write_of_ne hm b⟩

/-- Settles O46: the race writes the next free byte to a canonical memory. -/
theorem racingByteIsUnconstrained : Obligations.RacingByteIsUnconstrained := by
  intro s a ha hm
  exact ⟨_, perform_race_of_lt ha, Memory.write_wf hm a _, Memory.read_write_same hm a _,
    fun _ => Memory.read_write_of_ne hm _⟩

/-- What an outside event can do to the memory: nothing, or one byte written by a store or a race (R38). -/
theorem perform_mem_cases {e : HostEvent} {s t : State} (h : perform e s = .next t) :
    t.mem = s.mem ∨ ∃ a b, (e = .store a b ∨ e = .race a) ∧ t.mem = Memory.write s.mem a b := by
  rcases perform_cases h with rfl | ⟨a, w, -, -, hw⟩ | ⟨a, w, r, -, -, -, rfl⟩ | ⟨a, r, -, -, rfl⟩ |
    ⟨a, b, rfl, -, rfl⟩ | ⟨a, rfl, -, rfl⟩ | ⟨-, rfl⟩
  case inr.inl =>
    obtain ⟨-, hmem, -⟩ := execute_frame hw
    exact .inl hmem
  case inr.inr.inr.inr.inl => exact .inr ⟨a, b, .inl rfl, rfl⟩
  case inr.inr.inr.inr.inr.inl => exact .inr ⟨a, Config.freeByte s.draws, .inr rfl, rfl⟩
  all_goals exact .inl (by simp)

/-- Settles O47: only a store or a race writes the memory, and only the byte at its own address. -/
theorem blockNeverWritesMemory : Obligations.BlockNeverWritesMemory := by
  intro s t hm h
  rcases step_cases s with ⟨-, hidle⟩ | ⟨e, rest, hp, hstep⟩
  · cases hidle.symm.trans h
    exact .inl fun _ => rfl
  · rcases perform_mem_cases (hstep.symm.trans h) with hmem | ⟨a, b, he, hmem⟩
    · exact .inl fun _ => by rw [hmem]
    · refine .inr ⟨a, b, rest, by simpa [hp] using he, fun x hx => ?_⟩
      rw [hmem]
      exact Memory.read_write_of_ne hm b hx

/-! Where a step stops -/

theorem reflect_wellFormed_iff (bits : Nat) : (Instr.reflect bits).WellFormed ↔ 1 ≤ bits ∧ bits ≤ 16 := by
  simp [Instr.WellFormed, Instr.wellFormed]

/-- Operand assembly gives only widths 1 to 16 (R54, R63). -/
theorem assemble_wellFormed (op : Op) (w : Word) : (assemble op w).WellFormed := by
  cases op
  case reflect =>
    exact (reflect_wellFormed_iff _).mpr ⟨Nat.le_add_left 1 _, (fieldArg w).isLt⟩
  all_goals rfl

theorem wellFormed_of_decode {w : Word} {i : Instr} (h : decode w = .ok i) : i.WellFormed := by
  obtain ⟨row, -, -, rfl⟩ := decode_ok_row h
  exact assemble_wellFormed row.op w

/-- CALC and CALCS complete or record an error (R75). -/
theorem exists_runCalc_next (start : Half) (s : State) : ∃ t, runCalc start s = .next t := by
  rcases runCalc_cases start s with ⟨r, b, -, h⟩ | ⟨e, -, h⟩ <;> exact ⟨_, h⟩

theorem execReflect_of_width {bits : Nat} (h : 1 ≤ bits ∧ bits ≤ 16) (s : State) :
    execReflect bits s = .next (setRflout (reflect s.rflin bits) s) := if_pos h

/-- Every command of a legal width answers a next state (R127). -/
theorem exists_exec_next {i : Instr} (h : i.WellFormed) (s : State) : ∃ t, exec i s = .next t := by
  cases i with
  | nop => exact ⟨_, rfl⟩
  | calcInit => exact exists_runCalc_next s.init s
  | calcSeed => exact exists_runCalc_next s.seed s
  | reflect bits => exact ⟨_, execReflect_of_width ((reflect_wellFormed_iff bits).mp h) s⟩
  | preset p => exact ⟨_, rfl⟩
  | clrerr => exact ⟨_, rfl⟩

/-- Every word written to CMD answers a next state (R56, R127). -/
theorem exists_execute_next (w : Word) (s : State) : ∃ t, execute w s = .next t := by
  rcases execute_cases w s with ⟨i, hw, hi⟩ | ⟨e, -, he⟩
  · exact hi ▸ exists_exec_next (wellFormed_of_decode hw) s
  · exact ⟨_, he⟩

theorem exists_hostWrite_next (r : Reg) (w : Word) (s : State) : ∃ t, hostWrite r w s = .next t := by
  unfold hostWrite
  split
  · exact exists_execute_next w s
  · exact ⟨_, rfl⟩

/-- What an outside event can answer: a next state, the refusal of a misshapen access (R44), or the fault of a buffer
address that does not exist (R37). -/
theorem perform_answers (e : HostEvent) (s : State) :
    (∃ t, perform e s = .next t) ∨
      (∃ a n w, (e = .write a n w ∨ e = .read a n) ∧ MisshapenAccess s.params.crcBase a n ∧
        perform e s = .refused .windowAccess) ∨
      ∃ a b, (e = .store a b ∨ e = .race a) ∧ 2 ^ s.params.addrW ≤ a ∧ perform e s = .fault (.noBufferAddress a) := by
  cases e with
  | write a n w =>
    rcases access_cases s.params.crcBase a n with hout | ⟨r, rfl, rfl⟩ | hmis
    · exact .inl ⟨s, perform_write_of_outside hout w⟩
    · exact .inl (perform_write_offset s r w ▸ exists_hostWrite_next r w s)
    · exact .inr (.inl ⟨a, n, w, .inl rfl, hmis, perform_write_of_misshapen hmis w⟩)
  | read a n =>
    rcases access_cases s.params.crcBase a n with hout | ⟨r, rfl, rfl⟩ | hmis
    · exact .inl ⟨s, perform_read_of_outside hout⟩
    · exact .inl ⟨_, perform_read_offset s r⟩
    · exact .inr (.inl ⟨a, n, 0, .inr rfl, hmis, perform_read_of_misshapen hmis⟩)
  | store a b =>
    rcases Nat.lt_or_ge a (2 ^ s.params.addrW) with hlt | hge
    · exact .inl ⟨_, perform_store_of_lt hlt b⟩
    · exact .inr (.inr ⟨a, b, .inl rfl, hge, perform_store_of_le hge b⟩)
  | race a =>
    rcases Nat.lt_or_ge a (2 ^ s.params.addrW) with hlt | hge
    · exact .inl ⟨_, perform_race_of_lt hlt⟩
    · exact .inr (.inr ⟨a, 0, .inr rfl, hge, perform_race_of_le hge⟩)
  | reset => exact .inl ⟨_, rfl⟩

/-- Settles O9: a step answers what its oldest event does, and an idle step goes on. -/
theorem stepStopsOnlyOnABadAccess : Obligations.StepStopsOnlyOnABadAccess := by
  intro s
  rcases step_cases s with ⟨-, hidle⟩ | ⟨e, rest, hp, hstep⟩
  · exact .inl ⟨s, hidle⟩
  · rw [SafeStep, hp, hstep]
    rcases perform_answers e { s with pending := rest } with hnext | ⟨a, n, w, he, ⟨hlt, htouch, hshape⟩, hstop⟩ |
      ⟨a, b, he, ha, hstop⟩
    · exact .inl hnext
    · exact .inr (.inl ⟨a, n, w, rest, by simpa using he, hlt, htouch, hshape, hstop⟩)
    · exact .inr (.inr ⟨a, b, rest, by simpa using he, ha, hstop⟩)

end Sys2Proof.Machine

/-! ## The encoding's statements: command words field by field, decode and encode, illegal words (30_encoding.md) -/

namespace Sys2Proof.Machine

/-! The fields of a command word -/

/-- The fields of R51 are all of the word. -/
theorem fields_append (w : Word) : (fieldRsv w ++ fieldArg w) ++ fieldOp w = w := by
  have hhigh : fieldRsv w ++ fieldArg w = w.extractLsb' 8 24 := BitVec.extractLsb'_append_extractLsb'_eq_extractLsb' rfl
  rw [hhigh]
  exact (BitVec.extractLsb'_append_extractLsb'_eq_extractLsb' rfl).trans BitVec.extractLsb'_eq_self

/-- Two words are equal exactly when they agree in every field (R51). -/
theorem word_eq_iff_fields (w v : Word) :
    w = v ↔ fieldRsv w = fieldRsv v ∧ fieldArg w = fieldArg v ∧ fieldOp w = fieldOp v := by
  refine ⟨fun h => by simp [h], fun ⟨hrsv, harg, hop⟩ => ?_⟩
  rw [← fields_append w, ← fields_append v, hrsv, harg, hop]

theorem fieldRsv_and (w v : Word) : fieldRsv (w &&& v) = fieldRsv w &&& fieldRsv v := BitVec.extractLsb'_and
theorem fieldArg_and (w v : Word) : fieldArg (w &&& v) = fieldArg w &&& fieldArg v := BitVec.extractLsb'_and
theorem fieldOp_and (w v : Word) : fieldOp (w &&& v) = fieldOp w &&& fieldOp v := BitVec.extractLsb'_and

/-! The rows of the decode table -/

/-- Every row of R52's table compares all of RSV with 0 and all of OP, and the bits of ARG in its mask with 0. -/
theorem opRows_fields : ∀ r ∈ opRows, fieldRsv r.mask = BitVec.allOnes 20 ∧ fieldRsv r.pattern = 0 ∧
    fieldArg r.pattern = 0 ∧ fieldOp r.mask = BitVec.allOnes 8 := by decide

/-- The rows' operation codes are different (R53). -/
theorem opRows_eq_of_fieldOp_eq : ∀ r ∈ opRows, ∀ r' ∈ opRows, fieldOp r.pattern = fieldOp r'.pattern → r = r' := by
  decide

/-- A row of R52's table selects the words of its operation code whose RSV is 0 and whose ARG is 0 under the mask. -/
theorem selects_iff_fields {r : OpRow} (hr : r ∈ opRows) (w : Word) :
    r.selects w = true ↔ fieldRsv w = 0 ∧ fieldArg w &&& fieldArg r.mask = 0 ∧ fieldOp w = fieldOp r.pattern := by
  obtain ⟨hrsvMask, hrsv, harg, hopMask⟩ := opRows_fields r hr
  rw [OpRow.selects, beq_iff_eq, word_eq_iff_fields, fieldRsv_and, fieldArg_and, fieldOp_and, hrsvMask, hrsv, harg,
    hopMask, BitVec.and_allOnes, BitVec.and_allOnes]

/-- Only the row of its operation code can select a word (R52). -/
theorem eq_of_selects {r r' : OpRow} (hr : r ∈ opRows) (hr' : r' ∈ opRows) {w : Word}
    (hop : fieldOp w = fieldOp r.pattern) (hsel : r'.selects w = true) : r = r' := by
  obtain ⟨-, -, hop'⟩ := (selects_iff_fields hr' w).mp hsel
  exact opRows_eq_of_fieldOp_eq r hr r' hr' (hop.symm.trans hop')

/-- A word is illegal exactly when no row selects it (R52, R56). -/
theorem exists_decode_error_iff (w : Word) : (∃ e, decode w = .error e) ↔ ∀ r ∈ opRows, ¬r.selects w = true := by
  rw [← List.find?_eq_none]
  unfold decode
  split <;> simp [*]

/-- Settles O3: a word that two rows select would have two operation codes. -/
theorem oneRowAtMostSelectsAWord : Obligations.OneRowAtMostSelectsAWord := by
  refine ⟨fun w => ?_, fun w => ?_⟩
  · have hnodup : opRows.Nodup := by decide
    refine hnodup.imp_of_mem fun {r r'} hr hr' hne ⟨hsel, hsel'⟩ => hne ?_
    obtain ⟨-, -, hop⟩ := (selects_iff_fields hr w).mp hsel
    exact eq_of_selects hr hr' hop hsel'
  · simp [exists_decode_error_iff, OpRow.selects]

/-! Decode and encode -/

/-- A row's operation code is that of the instructions assembled from it (R53). -/
theorem opcode_assemble {r : OpRow} (hr : r ∈ opRows) (w : Word) : opcode (assemble r.op w) = fieldOp r.pattern := by
  simp only [opRows, List.mem_cons, List.not_mem_nil, or_false] at hr
  rcases hr with rfl | rfl | rfl | rfl | rfl | rfl <;> rfl

/-- The two bits of ARG that PRESET's row leaves free number its preset (R54, R86). -/
theorem presetIndex_presetOfIndex :
    ∀ arg : BitVec 4, arg &&& 0xC = 0 → presetIndex (presetOfIndex (arg.setWidth 2)) = arg := by decide

/-- The operands assembled from a word that its row selects give ARG back (R54). -/
theorem argument_assemble {r : OpRow} (hr : r ∈ opRows) {w : Word} (harg : fieldArg w &&& fieldArg r.mask = 0) :
    argument (assemble r.op w) = fieldArg w := by
  have hzero (h : fieldArg w &&& BitVec.allOnes 4 = 0) : 0 = fieldArg w := (BitVec.and_allOnes.symm.trans h).symm
  simp only [opRows, List.mem_cons, List.not_mem_nil, or_false] at hr
  rcases hr with rfl | rfl | rfl | rfl | rfl | rfl
  case inr.inr.inr.inl => exact BitVec.ofNat_toNat ..
  case inr.inr.inr.inr.inl => exact presetIndex_presetOfIndex _ harg
  all_goals exact hzero harg

/-- A legal word is the encoding of the instruction it decodes to. -/
theorem encode_of_decode {w : Word} {i : Instr} (h : decode w = .ok i) : encode i = w := by
  obtain ⟨r, hr, hsel, rfl⟩ := decode_ok_row h
  obtain ⟨hrsv, harg, hop⟩ := (selects_iff_fields hr w).mp (beq_iff_eq.mpr hsel)
  calc encode (assemble r.op w)
    _ = (0#20 ++ fieldArg w) ++ fieldOp w := by rw [encode, opcode_assemble hr w, argument_assemble hr harg, ← hop]
    _ = (fieldRsv w ++ fieldArg w) ++ fieldOp w := by rw [hrsv]; rfl
    _ = w := fields_append w

/-- Each of the 24 well-formed instructions is decoded from its encoding (R57). -/
theorem decode_encode {i : Instr} (h : i.WellFormed) : decode (encode i) = .ok i := by
  cases i with
  | reflect bits =>
    obtain ⟨h1, h16⟩ := (reflect_wellFormed_iff bits).mp h
    interval_cases bits <;> rfl
  | preset p => cases p <;> rfl
  | nop | calcInit | calcSeed | clrerr => rfl

/-- Settles O2: `decode_encode` and `encode_of_decode` are its two directions. -/
theorem decodeExactlyInvertsEncode : Obligations.DecodeExactlyInvertsEncode := by
  refine fun w i => ⟨fun h => ⟨wellFormed_of_decode h, encode_of_decode h⟩, ?_⟩
  rintro ⟨hi, rfl⟩
  exact decode_encode hi

/-! Illegal words -/

/-- An operation code is unassigned or some row's (R53). -/
theorem fieldOp_unassigned_or_row :
    ∀ op : BitVec 8, 0x06 ≤ op.toNat ∨ ∃ r ∈ opRows, op = fieldOp r.pattern := by decide

theorem opRows_fieldOp_lt : ∀ r ∈ opRows, (fieldOp r.pattern).toNat < 0x06 := by decide

/-- No row selects a word whose operation code is unassigned (R53, R55). -/
theorem not_selects_of_unassigned {w : Word} (hop : 0x06 ≤ (fieldOp w).toNat) :
    ∀ r ∈ opRows, ¬r.selects w = true := by
  intro r hr hsel
  obtain ⟨-, -, hrow⟩ := (selects_iff_fields hr w).mp hsel
  exact absurd (opRows_fieldOp_lt r hr) (Nat.not_lt_of_le (hrow ▸ hop))

/-- No row selects a word exactly when the row of its operation code does not: RSV is not 0, or ARG is not under the
row's mask (R55). -/
theorem forall_not_selects_iff_of_fieldOp {r : OpRow} (hr : r ∈ opRows) {w : Word} (hop : fieldOp w = fieldOp r.pattern) :
    (∀ r' ∈ opRows, ¬r'.selects w = true) ↔ fieldRsv w ≠ 0 ∨ fieldArg w &&& fieldArg r.mask ≠ 0 := by
  have hrow : (∀ r' ∈ opRows, ¬r'.selects w = true) ↔ ¬r.selects w = true := by
    exact ⟨fun h => h r hr, fun h r' hr' hsel => h (eq_of_selects hr hr' hop hsel ▸ hsel)⟩
  rw [hrow, selects_iff_fields hr, and_iff_left hop, not_and_or]

/-- Bits 11:10 of a word are the two high bits of ARG. -/
theorem extractLsb'_ten_two_eq_zero_iff (w : Word) : w.extractLsb' 10 2 = 0 ↔ fieldArg w &&& 0xC = 0 := by
  have hbits : w.extractLsb' 10 2 = (fieldArg w).extractLsb' 2 2 := by
    ext k hk
    have hk4 : 2 + k < 4 := by omega
    simp [fieldArg, hk4, ← Nat.add_assoc]
  have hmask : ∀ arg : BitVec 4, arg.extractLsb' 2 2 = 0 ↔ arg &&& 0xC = 0 := by decide
  rw [hbits, hmask]

/-- The words that no row selects, by their fields (R55). -/
theorem forall_not_selects_iff_fields (w : Word) : (∀ r ∈ opRows, ¬r.selects w = true) ↔
    0x06 ≤ (fieldOp w).toNat ∨ fieldRsv w ≠ 0 ∨
      (fieldOp w ∈ ([0x00, 0x01, 0x02, 0x05] : List (BitVec 8)) ∧ fieldArg w ≠ 0) ∨
      (fieldOp w = 0x04 ∧ w.extractLsb' 10 2 ≠ 0) := by
  rcases fieldOp_unassigned_or_row (fieldOp w) with hop | ⟨r, hr, hop⟩
  · exact iff_of_true (not_selects_of_unassigned hop) (.inl hop)
  · have hall : fieldArg w &&& fieldArg 0xFFFFFFFF#32 = fieldArg w := BitVec.and_allOnes
    have hnone : fieldArg w &&& fieldArg 0xFFFFF0FF#32 = 0#4 := BitVec.and_zero
    have hhigh : fieldArg w &&& fieldArg 0xFFFFFCFF#32 = fieldArg w &&& 0xC#4 := rfl
    rw [forall_not_selects_iff_of_fieldOp hr hop, hop, ne_eq (w.extractLsb' 10 2), extractLsb'_ten_two_eq_zero_iff]
    simp only [opRows, List.mem_cons, List.not_mem_nil, or_false] at hr
    rcases hr with rfl | rfl | rfl | rfl | rfl | rfl <;> simp [fieldOp, hall, hnone, hhigh]

/-- Settles O5: a word is illegal when no row selects it, and then its CMD write raises ILLEGAL_CMD. -/
theorem illegalWordOnlyRecordsIllegalCmd : Obligations.IllegalWordOnlyRecordsIllegalCmd := by
  refine ⟨fun w => (exists_decode_error_iff w).trans (forall_not_selects_iff_fields w), fun w e s h => ?_⟩
  have hexecute : execute w s = .next (raiseError .illegalCmd s) := by rw [execute, h]
  exact (perform_cmdWrite s w).trans hexecute

/-! Pseudo-instructions -/

/-- Settles O6: every line's expansion is written out; only `crc.reflect` asks whether its number is a width. -/
theorem pseudoInstructionsExpand : Obligations.PseudoInstructionsExpand := by
  refine ⟨rfl, rfl, rfl, rfl, fun bits h1 h16 => if_pos ⟨h1, h16⟩, fun bits hbits => ?_, rfl, rfl, rfl, rfl,
    fun _ _ _ _ => rfl, fun _ _ => rfl, fun _ => rfl⟩
  exact (expand_error_iff _ _).mpr ⟨bits, rfl, hbits, rfl⟩

end Sys2Proof.Machine

/-! ## The reflector's statements: its loop, REFLECT, and the reflected presets' polynomials (40_reflect.md) -/

namespace Sys2Proof.Machine

/-! The masks of R64's loop -/

/-- The check mask before iteration `k`: it starts at bit `top` and descends one bit an iteration (R64). -/
def checkMask (top k : Nat) : Half := ((1 : Half) <<< top) >>> k

/-- The set mask before iteration `k`: it starts at bit 0 and ascends one bit an iteration (R64). -/
def setMask (k : Nat) : BitVec 17 := (1 : BitVec 17) <<< k

theorem checkMask_zero (top : Nat) : checkMask top 0 = (1 : Half) <<< top := BitVec.ushiftRight_zero _

theorem setMask_zero : setMask 0 = 1 := rfl

theorem checkMask_shiftRight_one (top k : Nat) : checkMask top k >>> 1 = checkMask top (k + 1) :=
  (BitVec.shiftRight_add ..).symm

theorem setMask_shiftLeft_one (k : Nat) : setMask k <<< 1 = setMask (k + 1) := (BitVec.shiftLeft_add ..).symm

theorem getLsbD_checkMask {top : Nat} (htop : top < 16) (k j : Nat) :
    (checkMask top k).getLsbD j = decide (k + j = top) := by
  have hone : (1 : Half) <<< top = BitVec.twoPow 16 top := (BitVec.twoPow_eq 16 top).symm
  rw [checkMask, hone, BitVec.getLsbD_ushiftRight, BitVec.getLsbD_twoPow]
  simp [htop, eq_comm]

theorem getLsbD_setMask (k j : Nat) : ((setMask k).setWidth 16).getLsbD j = decide (j < 16 ∧ j = k) := by
  have hone : setMask k = BitVec.twoPow 17 k := (BitVec.twoPow_eq 17 k).symm
  rw [hone, BitVec.getLsbD_setWidth, BitVec.getLsbD_twoPow, Bool.eq_iff_iff]
  simp only [Bool.and_eq_true, decide_eq_true_eq]
  omega

/-- Until its bit has left the register, the check mask is the single bit `top - k`. -/
theorem checkMask_of_le {top k : Nat} (htop : top < 16) (hk : k ≤ top) : checkMask top k = BitVec.twoPow 16 (top - k) := by
  refine BitVec.eq_of_getLsbD_eq fun j _ => ?_
  rw [getLsbD_checkMask htop, BitVec.getLsbD_twoPow, Bool.eq_iff_iff]
  simp only [Bool.and_eq_true, decide_eq_true_eq]
  omega

theorem checkMask_of_lt {top k : Nat} (htop : top < 16) (hk : top < k) : checkMask top k = 0 := by
  refine BitVec.eq_of_getLsbD_eq fun j _ => ?_
  have hnone : k + j ≠ top := by omega
  simp [getLsbD_checkMask htop, hnone]

theorem twoPow_ne_zero {w i : Nat} (hi : i < w) : BitVec.twoPow w i ≠ 0 := fun h0 => by
  have hbit : (BitVec.twoPow w i).getLsbD i = true := by simp [hi]
  simp [h0] at hbit

/-- The check mask is nonzero before iterations 0 to `top` (R64). -/
theorem checkMask_ne_zero_iff {top : Nat} (htop : top < 16) (k : Nat) : checkMask top k ≠ 0 ↔ k ≤ top := by
  rcases Nat.lt_or_ge top k with hlt | hle
  · simp [checkMask_of_lt htop hlt, hlt]
  · rw [checkMask_of_le htop hle]
    exact iff_of_true (twoPow_ne_zero (by omega)) hle

/-- The check mask tests bit `top - k` of the value. -/
theorem and_checkMask_ne_zero_iff {top k : Nat} (htop : top < 16) (hk : k ≤ top) (v : Half) :
    v &&& checkMask top k ≠ 0 ↔ v.getLsbD (top - k) = true := by
  rw [checkMask_of_le htop hk, BitVec.and_twoPow]
  split
  · exact iff_of_true (twoPow_ne_zero (by omega)) ‹_›
  · exact iff_of_false (not_not.mpr rfl) ‹_›

/-! The loop of R64 -/

/-- The result after iteration `k`: its bit `k` set where bit `top - k` of the value is (R64). -/
def collectBit (v : Half) (top k : Nat) (ret : Half) : Half :=
  if v.getLsbD (top - k) = true then ret ||| (setMask k).setWidth 16 else ret

theorem getLsbD_collectBit {top k : Nat} (hk : k < 16) (v ret : Half) (j : Nat) :
    (collectBit v top k ret).getLsbD j = true ↔
      ret.getLsbD j = true ∨ (j = k ∧ v.getLsbD (top - j) = true) := by
  have hset : (j < 16 ∧ j = k) ↔ j = k := and_iff_right_of_imp fun hj => hj ▸ hk
  rw [collectBit]
  split
  · rw [BitVec.getLsbD_or, getLsbD_setMask, Bool.or_eq_true, decide_eq_true_eq, hset]
    exact or_congr_right ⟨fun hj => ⟨hj, hj ▸ ‹_›⟩, And.left⟩
  · exact (or_iff_left fun ⟨hj, hv⟩ => absurd (hj ▸ hv) ‹_›).symm

/-- Iteration `k` collects one bit, and the loop ends where no bit is left (R64). -/
theorem reflectLoop_succ {top : Nat} (htop : top < 16) (v : Half) (fuel k : Nat) (ret : Half) :
    reflectLoop v (fuel + 1) (checkMask top k) (setMask k) ret =
      if k ≤ top then reflectLoop v fuel (checkMask top (k + 1)) (setMask (k + 1)) (collectBit v top k ret) else ret := by
  rw [reflectLoop, checkMask_shiftRight_one, setMask_shiftLeft_one]
  by_cases hk : k ≤ top
  · simp only [if_neg ((checkMask_ne_zero_iff htop k).mpr hk), and_checkMask_ne_zero_iff htop hk, if_pos hk, collectBit]
  · rw [if_pos (checkMask_of_lt htop (Nat.lt_of_not_le hk)), if_neg hk]

/-- `fuel` iterations from iteration `k` on add bits `k` to `k + fuel - 1` of the mirror image of bits `top` to 0 (R64). -/
theorem getLsbD_reflectLoop_from {top : Nat} (htop : top < 16) (v : Half) (j fuel : Nat) : ∀ (k : Nat) (ret : Half),
    (reflectLoop v fuel (checkMask top k) (setMask k) ret).getLsbD j = true ↔
      ret.getLsbD j = true ∨ ((k ≤ j ∧ j < k + fuel ∧ j ≤ top) ∧ v.getLsbD (top - j) = true) := by
  induction fuel with
  | zero => exact fun k ret => (or_iff_left fun ⟨hj, _⟩ => by omega).symm
  | succ fuel ih =>
    intro k ret
    rw [reflectLoop_succ htop]
    rcases Nat.lt_or_ge top k with hlt | hle
    · rw [if_neg (Nat.not_le_of_lt hlt)]
      exact (or_iff_left fun ⟨hj, _⟩ => by omega).symm
    · have hrange : (j = k ∨ (k + 1 ≤ j ∧ j < k + 1 + fuel ∧ j ≤ top)) ↔ (k ≤ j ∧ j < k + (fuel + 1) ∧ j ≤ top) := by
        omega
      rw [if_pos hle, ih, getLsbD_collectBit (by omega), or_assoc, ← or_and_right, hrange]

/-- Bit `j` after at most `fuel` iterations of Reflect's loop at width `bits` (R64). -/
theorem getLsbD_reflectLoop {bits : Nat} (h1 : 1 ≤ bits) (h16 : bits ≤ 16) (v : Half) (fuel j : Nat) :
    (reflectLoop v fuel ((1 : Half) <<< (bits - 1)) 1 0).getLsbD j =
      (decide (j < fuel ∧ j < bits) && v.getLsbD (bits - 1 - j)) := by
  have hrange : (0 ≤ j ∧ j < 0 + fuel ∧ j ≤ bits - 1) ↔ (j < fuel ∧ j < bits) := by omega
  have hloop := getLsbD_reflectLoop_from (top := bits - 1) (by omega) v j fuel 0 0
  rw [checkMask_zero, setMask_zero, hrange] at hloop
  rw [Bool.eq_iff_iff, hloop, Bool.and_eq_true, decide_eq_true_eq]
  exact or_iff_right (by simp)

/-- Bit `j` of Reflect's value (R65). -/
theorem getLsbD_reflect {bits : Nat} (h1 : 1 ≤ bits) (h16 : bits ≤ 16) (v : Half) (j : Nat) :
    (reflect v bits).getLsbD j = (decide (j < bits) && v.getLsbD (bits - 1 - j)) := by
  have hrange : (j < 16 ∧ j < bits) ↔ j < bits := by omega
  simp only [reflect, getLsbD_reflectLoop h1 h16, hrange]

/-- More fuel than the width changes nothing: the loop has ended (R64). -/
theorem reflectLoop_of_le {bits fuel : Nat} (h1 : 1 ≤ bits) (h16 : bits ≤ 16) (hfuel : bits ≤ fuel) (v : Half) :
    reflectLoop v fuel ((1 : Half) <<< (bits - 1)) 1 0 = reflect v bits := by
  refine BitVec.eq_of_getLsbD_eq fun j _ => ?_
  have hrange : (j < fuel ∧ j < bits) ↔ j < bits := by omega
  simp only [getLsbD_reflectLoop h1 h16, getLsbD_reflect h1 h16, hrange]

/-- The last of the `bits` iterations is the one that moves bit 0 to the top (R64). -/
theorem reflectLoop_one_ne_of_lt {bits fuel : Nat} (h1 : 1 ≤ bits) (h16 : bits ≤ 16) (hfuel : fuel < bits) :
    reflectLoop 1 fuel ((1 : Half) <<< (bits - 1)) 1 0 ≠ reflect 1 bits := fun heq => by
  have hpos : 0 < bits := h1
  have htop : (reflect 1 bits).getLsbD (bits - 1) = true := by simp [getLsbD_reflect h1 h16, hpos]
  rw [← heq, getLsbD_reflectLoop h1 h16, Bool.and_eq_true, decide_eq_true_eq] at htop
  omega

/-- Settles O16: the check mask is the bit Bits-1-k, and the bits that the loop has set after any fuel are known. -/
theorem reflectRunsExactlyBitsIterations : Obligations.ReflectRunsExactlyBitsIterations := by
  intro v bits h1 h16
  refine ⟨fun k => ?_, fun fuel hfuel => reflectLoop_of_le h1 h16 hfuel v,
    fun k hk => reflectLoop_one_ne_of_lt h1 h16 hk⟩
  exact (checkMask_ne_zero_iff (by omega) k).trans (Nat.le_sub_one_iff_lt h1)

/-! The command REFLECT -/

/-- The command words of REFLECT (R51, R63). -/
theorem decode_eq_reflect_iff (w : Word) (bits : Nat) :
    decode w = .ok (.reflect bits) ↔ 1 ≤ bits ∧ bits ≤ 16 ∧ w = reflectWord bits := by
  rw [decodeExactlyInvertsEncode, reflect_wellFormed_iff, and_assoc]
  refine and_congr_right fun h1 => and_congr_right fun h16 => ?_
  rw [reflectWord_eq_encode bits h1 h16, eq_comm]

theorem execute_of_decode {w : Word} {i : Instr} (h : decode w = .ok i) (s : State) : execute w s = exec i s := by
  rw [execute, h]

/-- Settles O14: `decode_eq_reflect_iff` gives the words, and `getLsbD_reflect` the bits of the value that RFLOUT takes. -/
theorem reflectReversesTheLowBits : Obligations.ReflectReversesTheLowBits := by
  refine ⟨decode_eq_reflect_iff, fun w _ hrsv => ?_, fun s bits h1 h16 => ?_, fun s hs => ?_⟩
  · exact (exists_decode_error_iff w).mpr ((forall_not_selects_iff_fields w).mpr (.inr (.inl hrsv)))
  · exact ⟨reflect s.rflin bits, execReflect_of_width ⟨h1, h16⟩ s, fun j _ => getLsbD_reflect h1 h16 s.rflin j⟩
  · have hword : decode 0x00000F03 = .ok (.reflect 16) := by decide
    have hvalue : reflect s.rflin 16 = 0x8408 := by
      rw [hs]
      decide
    rw [execute_of_decode hword, ← hvalue]
    exact execReflect_of_width (by decide) s

/-! The reflected presets -/

/-- Settles O18: the two reflections are computed, and the rows are those of R86's table. -/
theorem reflectedPresetsUseReversedPolynomials : Obligations.ReflectedPresetsUseReversedPolynomials := by
  have hkermit : reflect 0x1021 16 = 0x8408 := by decide
  have husb : reflect 0x8005 16 = 0xA001 := by decide
  exact ⟨hkermit.symm, rfl, rfl, husb.symm, rfl, rfl⟩

end Sys2Proof.Machine

/-! ## The engine's statements: bit steps, CALC and CALCS where they complete, the commands' frame, and repetition
(41_engine.md) -/

namespace Sys2Proof.Machine

/-! The bit steps -/

/-- One bit step of R70, on the register and the byte. -/
def fwdBitStep (poly : Half) (x : Half × Byte) : Half × Byte :=
  (if x.1.getLsbD 15 ≠ x.2.getLsbD 7 then (x.1 <<< 1) ^^^ poly else x.1 <<< 1, x.2 <<< 1)

/-- One bit step of R71, on the register. -/
def refBitStep (poly : Half) (x : Half) : Half := if x.getLsbD 0 = true then (x >>> 1) ^^^ poly else x >>> 1

theorem fwdBits_succ (k : Nat) (crc : Half) (b : Byte) (poly : Half) :
    fwdBits (k + 1) crc b poly = fwdBits k (fwdBitStep poly (crc, b)).1 (fwdBitStep poly (crc, b)).2 poly := by
  simp only [fwdBits, fwdBitStep, bne_iff_ne]

theorem fwdBits_eq_iterate (k : Nat) (crc : Half) (b : Byte) (poly : Half) :
    fwdBits k crc b poly = ((fwdBitStep poly)^[k] (crc, b)).1 := by
  induction k generalizing crc b with
  | zero => rfl
  | succ k ih => rw [fwdBits_succ, ih, Function.iterate_succ_apply]

theorem refBits_eq_iterate (k : Nat) (crc poly : Half) : refBits k crc poly = (refBitStep poly)^[k] crc := by
  induction k generalizing crc with
  | zero => rfl
  | succ k ih => rw [Function.iterate_succ_apply, ← ih, refBits, refBitStep]

/-- Settles O19: `fwdBits_eq_iterate` for the eight bits of a byte. -/
theorem fwdByteIsEightBitSteps : Obligations.FwdByteIsEightBitSteps :=
  fun crc b poly => fwdBits_eq_iterate 8 crc b poly

/-- Settles O20: `refBits_eq_iterate` for eight bits, from the register with the byte in it. -/
theorem refByteIsEightBitSteps : Obligations.RefByteIsEightBitSteps :=
  fun crc b poly => refBits_eq_iterate 8 (crc ^^^ b.setWidth 16) poly

/-! CALC and CALCS where no error condition holds -/

/-- CalcCore where no error condition of R101 holds (R75). -/
theorem calcCore_of_accepted (start : Half) {s : State} (h : s.CalcAccepted) :
    calcCore start s =
      .ok (process s.ctrlRev s.poly start (s.bufferBytes s.narrowedLen) ^^^ s.xorout,
        decide (2 ^ s.params.lenW ≤ s.len.toNat)) := by
  obtain ⟨hlen, hnull, hwrap, hread⟩ := h
  have hrange : ¬(s.ctrlLchk = true ∧ 2 ^ s.params.lenW ≤ s.len.toNat) := fun ⟨hlchk, hle⟩ =>
    Nat.not_le_of_lt (hlen hlchk) hle
  have hnull' : ¬(s.narrowedLen ≠ 0 ∧ s.addr = 0) := fun ⟨hn, ha⟩ => hnull hn ha
  rw [calcCore_eq, if_neg hrange]
  exact (if_neg hnull').trans ((if_neg (Nat.not_lt_of_le hwrap)).trans (if_pos hread))

/-- A CALC or CALCS where no error condition holds writes RESULT and TRUNC and nothing else (R75, R85). -/
theorem runCalc_of_accepted (start : Half) {s : State} (h : s.CalcAccepted) :
    runCalc start s =
      .next (setResult (process s.ctrlRev s.poly start (s.bufferBytes s.narrowedLen) ^^^ s.xorout)
        (decide (2 ^ s.params.lenW ≤ s.len.toNat)) s) := by
  rw [runCalc, calcCore_of_accepted start h]

/-- Settles O26: `runCalc_of_accepted` from INIT and from SEED; `process` is the fold of the byte function REV selects. -/
theorem calcComputesTheChecksum : Obligations.CalcComputesTheChecksum :=
  fun s h => ⟨runCalc_of_accepted s.init h, runCalc_of_accepted s.seed h⟩

/-- An empty buffer is accepted wherever ADDR points: no byte has to exist or be readable (R77). -/
theorem calcAccepted_of_narrowedLen_zero {s : State} (haddr : s.addr.toNat < 2 ^ s.params.addrW) (hn : s.narrowedLen = 0)
    (hlen : s.ctrlLchk = true → s.len.toNat < 2 ^ s.params.lenW) : s.CalcAccepted := by
  refine ⟨hlen, absurd hn, ?_, ?_⟩
  · rw [hn]
    exact haddr.le
  · rw [hn]
    exact nofun

/-- The register over an empty buffer is the start value (R77). -/
theorem runCalc_of_narrowedLen_zero (start : Half) {s : State} (haddr : s.addr.toNat < 2 ^ s.params.addrW)
    (hn : s.narrowedLen = 0) (hlen : s.ctrlLchk = true → s.len.toNat < 2 ^ s.params.lenW) :
    runCalc start s = .next (setResult (start ^^^ s.xorout) (decide (2 ^ s.params.lenW ≤ s.len.toNat)) s) := by
  rw [runCalc_of_accepted start (calcAccepted_of_narrowedLen_zero haddr hn hlen), hn]
  rfl

/-- Settles O28: `runCalc_of_narrowedLen_zero` from INIT and from SEED; a LEN of 0 fits every counter, so the two presets'
values are INIT XOR XOROUT of their rows. -/
theorem zeroLengthBufferGivesInitXorMask : Obligations.ZeroLengthBufferGivesInitXorMask := by
  refine ⟨fun s haddr hn hlen => ⟨runCalc_of_narrowedLen_zero s.init haddr hn hlen,
    runCalc_of_narrowedLen_zero s.seed haddr hn hlen⟩, fun s haddr hlen => ?_⟩
  have hzero : s.len.toNat = 0 := by simp [hlen]
  have hcalc := runCalc_of_narrowedLen_zero s.init haddr (by simp [State.narrowedLen, hzero])
    (fun _ => by simp [hzero])
  have hresult {p : Preset} (hcfg : sampleCfg s = presetRow p) :
      s.init ^^^ s.xorout = (presetRow p).init ^^^ (presetRow p).xorout := by
    rw [← hcfg]
    rfl
  exact ⟨fun hcfg => ⟨_, hcalc, hresult hcfg⟩, fun hcfg => ⟨_, hcalc, hresult hcfg⟩⟩

/-! The frame of a command -/

section

variable {i : Instr} {s t : State}

/-- No command changes an operand register, CTRL.LCHK, or anything of the host's (R85). -/
theorem exec_operands_host (h : exec i s = .next t) :
    t.addr = s.addr ∧ t.len = s.len ∧ t.seed = s.seed ∧ t.rflin = s.rflin ∧ t.ctrlLchk = s.ctrlLchk ∧
      t.params = s.params ∧ t.pending = s.pending ∧ t.observed = s.observed ∧ t.draws = s.draws := by
  rcases exec_cases h with ⟨-, rfl⟩ | ⟨-, r, b, rfl⟩ | ⟨-, e, rfl⟩ | ⟨bits, -, -, -, rfl⟩ | ⟨p, -, rfl⟩ | ⟨-, rfl⟩ <;> simp

/-- Only PRESET changes the configuration tuple (R87). -/
theorem exec_cfg_of_ne_preset (h : exec i s = .next t) (hi : ∀ p, i ≠ .preset p) :
    t.poly = s.poly ∧ t.init = s.init ∧ t.xorout = s.xorout ∧ t.ctrlRev = s.ctrlRev := by
  rcases exec_cases h with ⟨-, rfl⟩ | ⟨-, r, b, rfl⟩ | ⟨-, e, rfl⟩ | ⟨bits, -, -, -, rfl⟩ | ⟨p, hp, -⟩ | ⟨-, rfl⟩
  case inr.inr.inr.inr.inl => exact absurd hp (hi p)
  all_goals simp

/-- Only CALC and CALCS change RESULT or TRUNC (R85). -/
theorem exec_result_of_ne_calc (h : exec i s = .next t) (hi : ¬(i = .calcInit ∨ i = .calcSeed)) :
    t.result = s.result ∧ t.statusTrunc = s.statusTrunc := by
  rcases exec_cases h with ⟨-, rfl⟩ | ⟨hcalc, -⟩ | ⟨-, e, rfl⟩ | ⟨bits, -, -, -, rfl⟩ | ⟨p, -, rfl⟩ | ⟨-, rfl⟩
  case inr.inl => exact absurd hcalc hi
  all_goals simp

/-- Only REFLECT changes RFLOUT (R66). -/
theorem exec_rflout_of_ne_reflect (h : exec i s = .next t) (hi : ∀ bits, i ≠ .reflect bits) : t.rflout = s.rflout := by
  rcases exec_cases h with ⟨-, rfl⟩ | ⟨-, r, b, rfl⟩ | ⟨-, e, rfl⟩ | ⟨bits, hbits, -⟩ | ⟨p, -, rfl⟩ | ⟨-, rfl⟩
  case inr.inr.inr.inl => exact absurd hbits (hi bits)
  all_goals simp

/-- Only CALC, CALCS and CLRERR change ERR (R85, R97). -/
theorem exec_statusErr_of_ne (h : exec i s = .next t) (hcalc : ¬(i = .calcInit ∨ i = .calcSeed)) (hclr : i ≠ .clrerr) :
    t.statusErr = s.statusErr := by
  rcases exec_cases h with ⟨-, rfl⟩ | ⟨-, r, b, rfl⟩ | ⟨hi, -⟩ | ⟨bits, -, -, -, rfl⟩ | ⟨p, -, rfl⟩ | ⟨hi, -⟩
  case inr.inr.inl => exact absurd hi hcalc
  case inr.inr.inr.inr.inr => exact absurd hi hclr
  all_goals simp

/-- A command that changes ERR writes neither RESULT nor TRUNC: what completes a CALC or CALCS leaves ERR (R85, R104). -/
theorem exec_result_of_statusErr_ne (h : exec i s = .next t) (hne : t.statusErr ≠ s.statusErr) :
    t.result = s.result ∧ t.statusTrunc = s.statusTrunc := by
  rcases exec_cases h with ⟨-, rfl⟩ | ⟨-, r, b, rfl⟩ | ⟨-, e, rfl⟩ | ⟨bits, -, -, -, rfl⟩ | ⟨p, -, rfl⟩ | ⟨-, rfl⟩
  case inr.inl => exact absurd (setResult_statusErr r b s) hne
  all_goals simp

end

/-- Settles O35: the frame lemmas of `exec` together. -/
theorem commandsChangeOnlyTheirRegisters : Obligations.CommandsChangeOnlyTheirRegisters := by
  intro i s t h
  obtain ⟨-, hmem, -⟩ := exec_frame h
  obtain ⟨haddr, hlen, hseed, hrflin, hlchk, hparams, hpending, hobserved, hdraws⟩ := exec_operands_host h
  exact ⟨fun a => by rw [hmem], hmem, haddr, hlen, hseed, hrflin, hlchk, hparams, hpending, hobserved, hdraws,
    exec_cfg_of_ne_preset h, fun hcalc hcalcs => exec_result_of_ne_calc h (not_or.mpr ⟨hcalc, hcalcs⟩),
    exec_rflout_of_ne_reflect h, fun hcalc hcalcs => exec_statusErr_of_ne h (not_or.mpr ⟨hcalc, hcalcs⟩),
    exec_result_of_statusErr_ne h⟩

/-! What CALC and CALCS depend on -/

/-- Two states agree on what a CALC may read (R80). -/
structure SameCalcInputs (s t : State) : Prop where
  cfg : sampleCfg s = sampleCfg t
  lchk : s.ctrlLchk = t.ctrlLchk
  addr : s.addr = t.addr
  len : s.len = t.len
  lenW : s.params.lenW = t.params.lenW
  addrW : s.params.addrW = t.params.addrW
  readable (a : Nat) : Machine.readable s.params a = Machine.readable t.params a
  bytes : ∀ k < s.len.toNat % 2 ^ s.params.lenW,
    Memory.read s.mem (s.addr.toNat + k) = Memory.read t.mem (t.addr.toNat + k)

/-- CalcCore reads its inputs and nothing else (R80). -/
theorem calcCore_congr (start : Half) {s t : State} (h : SameCalcInputs s t) : calcCore start s = calcCore start t := by
  have hpoly : s.poly = t.poly := congrArg Cfg.poly h.cfg
  have hxorout : s.xorout = t.xorout := congrArg Cfg.xorout h.cfg
  have hrev : s.ctrlRev = t.ctrlRev := congrArg Cfg.rev h.cfg
  have hbytes : (List.range (s.len.toNat % 2 ^ s.params.lenW)).map (fun i => Memory.read s.mem (s.addr.toNat + i)) =
      (List.range (s.len.toNat % 2 ^ s.params.lenW)).map (fun i => Memory.read t.mem (t.addr.toNat + i)) :=
    List.map_congr_left fun k hk => h.bytes k (List.mem_range.mp hk)
  rw [calcCore_eq, calcCore_eq, hbytes]
  simp only [hpoly, hxorout, hrev, h.lchk, h.addr, h.len, h.lenW, h.addrW, h.readable]

/-- The registers a CALC or CALCS may write are none of its inputs (R80, R85). -/
theorem sameCalcInputs_of_runCalc {start : Half} {s t : State} (h : runCalc start s = .next t) : SameCalcInputs t s := by
  rcases runCalc_cases start s with ⟨r, trunc, -, hrun⟩ | ⟨e, -, hrun⟩
  all_goals
    cases hrun.symm.trans h
    exact ⟨rfl, rfl, rfl, rfl, rfl, rfl, fun _ => rfl, fun _ _ => rfl⟩

/-- CalcCore repeated from the same start finds the same result or the same error, and writes what is there (R80, R103). -/
theorem runCalc_idempotent {start : Half} {s t : State} (h : runCalc start s = .next t) : runCalc start t = .next t := by
  have hsame : calcCore start t = calcCore start s := calcCore_congr start (sameCalcInputs_of_runCalc h)
  rcases runCalc_cases start s with ⟨r, trunc, hcore, hrun⟩ | ⟨e, hcore, hrun⟩
  · cases hrun.symm.trans h
    rw [runCalc, hsame, hcore]
    rfl
  · cases hrun.symm.trans h
    rw [runCalc, hsame, hcore]
    exact congrArg Host.Outcome.next (raiseError_raiseError e e s)

theorem execCalc_idempotent {s t : State} (h : execCalc s = .next t) : execCalc t = .next t := by
  have hinit : t.init = s.init := congrArg Cfg.init (sameCalcInputs_of_runCalc h).cfg
  rw [execCalc, hinit]
  exact runCalc_idempotent h

theorem execCalcs_idempotent {s t : State} (h : execCalcs s = .next t) : execCalcs t = .next t := by
  obtain ⟨-, -, hseed, -⟩ := exec_operands_host (i := .calcSeed) h
  rw [execCalcs, hseed]
  exact runCalc_idempotent h

/-- Settles O33: the two CalcCores start from the same INIT and read the same inputs, so they answer alike. -/
theorem calcDependsOnItsInputsAlone : Obligations.CalcDependsOnItsInputsAlone := by
  refine ⟨fun s t hcfg hlchk haddr hlen hlenW haddrW hreadable hbytes => ?_, fun s t h => execCalc_idempotent h⟩
  have hinit : s.init = t.init := congrArg Cfg.init hcfg
  have hcore : calcCore t.init t = calcCore s.init s := by
    rw [← hinit]
    exact (calcCore_congr s.init ⟨hcfg, hlchk, haddr, hlen, hlenW, haddrW, hreadable, hbytes⟩).symm
  have hexec : exec .calcInit t = runCalc t.init t := rfl
  rw [hexec, runCalc, hcore]
  rcases runCalc_cases s.init s with ⟨r, trunc, hs, hrun⟩ | ⟨e, hs, hrun⟩
  · rw [hs]
    exact .inl ⟨r, trunc, hrun, rfl⟩
  · rw [hs]
    exact .inr ⟨e, hrun, rfl⟩

/-- Settles O34: NOP, REFLECT, PRESET and CLRERR write values they do not depend on; `runCalc_idempotent` is the case of
CALC and CALCS. -/
theorem everyCommandIsIdempotent : Obligations.EveryCommandIsIdempotent := by
  intro i s t h
  cases i with
  | nop => rfl
  | calcInit => exact execCalc_idempotent h
  | calcSeed => exact execCalcs_idempotent h
  | reflect bits =>
    by_cases hbits : 1 ≤ bits ∧ bits ≤ 16
    · cases (execReflect_of_width hbits s).symm.trans h
      exact execReflect_of_width hbits _
    · cases (if_neg hbits).symm.trans h
  | preset p =>
    cases h
    rfl
  | clrerr =>
    cases h
    rfl

end Sys2Proof.Machine

/-! ## The preset table's statement: PRESET's words and its rows (42_variants.md) -/

namespace Sys2Proof.Machine

/-- The command words of PRESET (R87). -/
theorem decode_eq_preset_iff (w : Word) (p : Preset) : decode w = .ok (.preset p) ↔ w = presetWord p := by
  have hwf : (Instr.preset p).WellFormed := rfl
  rw [decodeExactlyInvertsEncode, and_iff_right hwf, presetWord_eq_encode, eq_comm]

/-- A word of PRESET's operation code that has a bit of ARG[3:2] set is illegal (R56, R87). -/
theorem exists_decode_error_of_preset_arg {w : Word} (hop : fieldOp w = 0x04) (harg : w.extractLsb' 10 2 ≠ 0) :
    ∃ e, decode w = .error e :=
  ((exists_decode_error_iff w).trans (forall_not_selects_iff_fields w)).mpr (.inr (.inr (.inr ⟨hop, harg⟩)))

@[simp] theorem sampleCfg_loadCfg (c : Cfg) (s : State) : sampleCfg (loadCfg c s) = c := rfl

@[simp] theorem loadCfg_sampleCfg (s : State) : loadCfg (sampleCfg s) s = s := rfl

theorem exec_preset (p : Preset) (s : State) : exec (.preset p) s = .next (loadCfg (presetRow p) s) := rfl

theorem exec_preset_of_loaded {s : State} {p : Preset} (h : sampleCfg s = presetRow p) : exec (.preset p) s = .next s := by
  rw [exec_preset, ← h, loadCfg_sampleCfg]

theorem sampleCfg_of_exec_preset {p : Preset} {s t : State} (h : exec (.preset p) s = .next t) :
    sampleCfg t = presetRow p := by
  cases h
  exact sampleCfg_loadCfg (presetRow p) s

/-- The reset configuration is row 0 of the preset table (R34, R86). -/
theorem sampleCfg_reset : sampleCfg State.reset = presetRow .xmodem := rfl

/-- Settles O13: `decode_eq_preset_iff` gives the words, and loading a row writes that row's four values. -/
theorem presetLoadsItsRow : Obligations.PresetLoadsItsRow := by
  refine ⟨fun w => decode_eq_preset_iff w .xmodem, fun w => decode_eq_preset_iff w .kermit,
    fun w => decode_eq_preset_iff w .ccittFalse, fun w => decode_eq_preset_iff w .usb,
    fun _ => exists_decode_error_of_preset_arg, exec_preset .xmodem, exec_preset .kermit, exec_preset .ccittFalse,
    exec_preset .usb, fun _ _ => exec_preset_of_loaded, fun s t h => ?_⟩
  rw [sampleCfg_of_exec_preset h, sampleCfg_reset]

end Sys2Proof.Machine

/-! ## The control statements: NOP, CLRERR, a recorded error, the CMD write, and the window register by register
(43_control.md) -/

namespace Sys2Proof.Machine

/-! A recorded error blocks nothing -/

/-- STATUS.ERR is no input of CalcCore (R80). -/
theorem calcCore_withErr (start : Half) (s : State) (err : BitVec 4) :
    calcCore start { s with statusErr := err } = calcCore start s :=
  calcCore_congr start ⟨rfl, rfl, rfl, rfl, rfl, rfl, fun _ => rfl, fun _ _ => rfl⟩

/-- From another STATUS.ERR a CALC or CALCS completes with the same values or finds the same error (R98). -/
theorem runCalc_withErr {start : Half} {s t : State} (err : BitVec 4) (h : runCalc start s = .next t) :
    ∃ t', runCalc start { s with statusErr := err } = .next t' ∧ { t' with statusErr := t.statusErr } = t := by
  rcases runCalc_cases start s with ⟨r, trunc, hcore, hrun⟩ | ⟨e, hcore, hrun⟩
  all_goals
    cases hrun.symm.trans h
    rw [runCalc, calcCore_withErr, hcore]
    exact ⟨_, rfl, rfl⟩

/-- Settles O38: no command looks at STATUS.ERR before it writes; `runCalc_withErr` is the case of CALC and CALCS. -/
theorem commandsRunWhateverErrorIsRecorded : Obligations.CommandsRunWhateverErrorIsRecorded := by
  intro i s t err h
  cases i with
  | calcInit => exact runCalc_withErr err h
  | calcSeed => exact runCalc_withErr err h
  | reflect bits =>
    by_cases hbits : 1 ≤ bits ∧ bits ≤ 16
    · cases (execReflect_of_width hbits s).symm.trans h
      exact ⟨_, execReflect_of_width hbits _, rfl⟩
    · cases (if_neg hbits).symm.trans h
  | nop | preset p | clrerr =>
    cases h
    exact ⟨_, rfl, rfl⟩

/-! The CMD write -/

/-- A step whose oldest event is the CMD write of a legal word runs the command it encodes (R26, R94). -/
theorem step_of_cmdWrite {s : State} {w : Word} {i : Instr} {rest : List HostEvent}
    (hp : s.pending = cmdWrite s.params.crcBase w :: rest) (hw : decode w = .ok i) :
    step s = exec i { s with pending := rest } :=
  calc step s
    _ = perform (cmdWrite s.params.crcBase w) { s with pending := rest } := stepPerformsTheOldestEvent.1 s _ rest hp
    _ = execute w { s with pending := rest } := perform_cmdWrite { s with pending := rest } w
    _ = exec i { s with pending := rest } := execute_of_decode hw _

/-- A command word of the full width stands whole in front of the queue. -/
theorem withFetchWord_pending (s : State) (w : Word) :
    (s.withFetchWord 32 w.toNat).pending = cmdWrite s.params.crcBase w :: s.pending := by
  have hword : BitVec.ofNat 32 (w.toNat % 2 ^ 32) = w := by
    rw [Nat.mod_eq_of_lt w.isLt, BitVec.ofNat_toNat, BitVec.setWidth_eq]
  rw [State.withFetchWord, hword]

/-- Settles O7: `step_of_cmdWrite`, and an encoding decodes to its instruction. -/
theorem stepRunsTheDecodedCommand : Obligations.StepRunsTheDecodedCommand :=
  ⟨fun _ _ _ _ hp hw => step_of_cmdWrite hp hw,
    fun s i hi => step_of_cmdWrite (withFetchWord_pending s (encode i)) (decode_encode hi)⟩

/-! NOP and CLRERR -/

/-- A well-formed instruction is decoded from its encoding only. -/
theorem decode_eq_ok_iff {i : Instr} (hi : i.WellFormed) (w : Word) : decode w = .ok i ↔ w = encode i := by
  rw [decodeExactlyInvertsEncode, and_iff_right hi, eq_comm]

/-- A word of NOP's operation code with another bit set is illegal (R56, R96). -/
theorem exists_decode_error_of_nop_bits {w : Word} (hop : fieldOp w = 0x00) (hne : w ≠ 0) : ∃ e, decode w = .error e := by
  rw [exists_decode_error_iff, forall_not_selects_iff_fields]
  by_cases hrsv : fieldRsv w = 0
  · have harg : fieldArg w ≠ 0 := fun harg => hne ((word_eq_iff_fields w 0).mpr ⟨hrsv, harg, hop⟩)
    exact .inr (.inr (.inl ⟨by simp [hop], harg⟩))
  · exact .inr (.inl hrsv)

/-- Settles O11: NOP's word is its encoding, 0, and its meaning is the state itself. -/
theorem nopChangesNothing : Obligations.NopChangesNothing :=
  ⟨decode_eq_ok_iff (i := .nop) rfl, fun _ => exists_decode_error_of_nop_bits, fun _ => rfl⟩

theorem exec_clrerr (s : State) : exec .clrerr s = .next (clearError s) := rfl

theorem clearError_of_zero {s : State} (h : s.statusErr = 0) : clearError s = s := by
  rw [clearError, ← h]

/-- After a CLRERR the next error is the first one (R97, R103). -/
theorem raiseError_clearError_statusErr (e : ErrCode) (s : State) : (raiseError e (clearError s)).statusErr = e.code := by
  rw [raiseError_statusErr, clearError_statusErr, firstError_of_zero]

/-- STATUS reads TRUNC in bit 8 (R29). -/
theorem getLsbD_statusWord_eight : ∀ (err : BitVec 4) (trunc : Bool), (statusWord err trunc).getLsbD 8 = trunc := by decide

/-- Settles O12: CLRERR's word is its encoding, 5; it clears ERR, and bit 8 of 0x103 says that TRUNC is set. -/
theorem clrerrClearsTheRecordedError : Obligations.ClrerrClearsTheRecordedError := by
  refine ⟨decode_eq_ok_iff (i := .clrerr) rfl, exec_clrerr, fun s hs => ?_, fun s t e h => ?_, fun s hs => ?_⟩
  · rw [exec_clrerr, clearError_of_zero hs]
  · cases h
    exact raiseError_clearError_statusErr e s
  · have htrunc : s.statusTrunc = true := by
      rw [← getLsbD_statusWord_eight s.statusErr s.statusTrunc]
      exact congrArg (BitVec.getLsbD · 8) hs
    refine ⟨_, exec_clrerr s, ?_⟩
    rw [readReg, clearError_statusErr, clearError_statusTrunc, htrunc]
    rfl

/-! The window, register by register -/

/-- A host write of a register other than CMD takes its fields from the data and issues no command (R90). -/
theorem perform_write_of_ne_cmd {r : Reg} (hr : r ≠ .cmd) (s : State) (w : Word) :
    perform (.write (s.params.crcBase + regOffset r) 4 w) s = .next (writeReg r w s) := by
  rw [perform_write_offset, hostWrite, if_neg hr]

/-- Settles O39: CMD executes the word; every other offset is that of a register whose write `writeReg` gives. -/
theorem hostWriteSetsTheAddressedRegister : Obligations.HostWriteSetsTheAddressedRegister := by
  intro s w write
  have hwrite {r : Reg} (hr : r ≠ .cmd) : write (regOffset r) = .next (writeReg r w s) := perform_write_of_ne_cmd hr s w
  have hcmd : write (regOffset .cmd) = execute w s := perform_cmdWrite s w
  exact ⟨hwrite (r := .poly) nofun, hwrite (r := .init) nofun, hwrite (r := .xorout) nofun, hwrite (r := .ctrl) nofun,
    hwrite (r := .addr) nofun, hwrite (r := .len) nofun, hwrite (r := .seed) nofun, hwrite (r := .rflin) nofun, hcmd,
    hwrite (r := .result) nofun, hwrite (r := .rflout) nofun, hwrite (r := .status) nofun, hwrite (r := .rsv0) nofun,
    hwrite (r := .rsv1) nofun, hwrite (r := .rsv2) nofun, hwrite (r := .rsv3) nofun⟩

/-- CTRL reads LCHK in bit 1 and REV in bit 0 (R91). -/
theorem ctrlWord_eq (rev lchk : Bool) : ctrlWord rev lchk = (if lchk then 2 else 0) ||| if rev then 1 else 0 := by
  cases lchk <;> rfl

/-- STATUS reads TRUNC in bit 8 and ERR in bits 3:0 (R29, R91). -/
theorem statusWord_eq (err : BitVec 4) (trunc : Bool) :
    statusWord err trunc = (if trunc then 0x100 else 0) ||| err.setWidth 32 := by
  cases trunc <;> rfl

/-- Settles O40: every offset is that of a register whose value `readReg` gives; CTRL and STATUS are put together from
their fields. -/
theorem hostReadReturnsTheAddressedRegister : Obligations.HostReadReturnsTheAddressedRegister := by
  intro s returns
  have hread (r : Reg) : returns (regOffset r) (readReg r s) := perform_read_offset s r
  have hctrl := hread .ctrl
  have hstatus := hread .status
  rw [readReg, ctrlWord_eq] at hctrl
  rw [readReg, statusWord_eq] at hstatus
  exact ⟨hread .poly, hread .init, hread .xorout, hctrl, hread .addr, hread .len, hread .seed, hread .result,
    hread .rflin, hread .rflout, hread .cmd, hstatus, hread .rsv0, hread .rsv1, hread .rsv2, hread .rsv3⟩

end Sys2Proof.Machine

/-! ## The exceptions' statements: the order of a CALC's error conditions, an abandoned command, the first error kept
(60_exceptions.md) -/

namespace Sys2Proof.Machine

/-! The error conditions of CALC and CALCS -/

/-- CALC and CALCS record the error CalcCore finds, which no start value bears on (R76, R78, R104). -/
theorem exec_of_calcCore_error {i : Instr} (hi : i = .calcInit ∨ i = .calcSeed) {s : State} {e : ErrCode}
    (h : ∀ start, calcCore start s = .error e) : exec i s = .next (raiseError e s) := by
  have hrun (start : Half) : runCalc start s = .next (raiseError e s) := by rw [runCalc, h start]
  rcases hi with rfl | rfl
  · exact hrun s.init
  · exact hrun s.seed

/-- Settles O27: the clauses are the error branches of `calcCore_eq`, in its order. -/
theorem calcRecordsTheFirstErrorCondition : Obligations.CalcRecordsTheFirstErrorCondition := by
  intro s i hi n recorded
  have hrecords (e : ErrCode) (h : ∀ start, calcCore start s = .error e) : exec i s = .next (recorded e.code) :=
    exec_of_calcCore_error hi h
  refine ⟨fun hrange => hrecords .lenRange fun start => ?_, fun hrange hnull => hrecords .nullBuf fun start => ?_,
    fun hrange hnull hwrap => hrecords .busFault fun start => ?_,
    fun hrange hnull hfits hunreadable => hrecords .busFault fun start => ?_⟩
  · rw [calcCore_eq, if_pos hrange]
  · rw [calcCore_eq, if_neg hrange, if_pos hnull]
  · rw [calcCore_eq, if_neg hrange, if_neg hnull, if_pos hwrap]
  · have hread : ¬∀ k < n, readable s.params (s.addr.toNat + k) = true := by simpa using hunreadable
    rw [calcCore_eq, if_neg hrange, if_neg hnull, if_neg (Nat.not_lt_of_le hfits), if_neg hread]

/-! What a recorded error leaves alone, and what leaves it alone -/

/-- Settles O36: but for CLRERR's word only a raised error changes STATUS.ERR, and it changes nothing else. -/
theorem errorAbandonsItsCommand : Obligations.ErrorAbandonsItsCommand := by
  intro w s t h hne hw
  rcases execute_next_cases h with rfl | ⟨-, r, b, rfl⟩ | ⟨e, rfl⟩ | ⟨bits, -, rfl⟩ | ⟨p, -, rfl⟩ | ⟨hclr, -⟩
  case inr.inr.inl => rfl
  case inr.inr.inr.inr.inr => exact absurd hclr hw
  all_goals simp at hne

/-- Settles O37: `raiseError` is the rule itself, and a word other than CLRERR's changes only an ERR of 0. -/
theorem firstErrorIsKeptUntilClrerr : Obligations.FirstErrorIsKeptUntilClrerr := by
  refine ⟨fun _ _ => rfl, rfl, rfl, rfl, rfl, fun w s t h herr hw => ?_⟩
  by_contra hne
  rcases execute_statusErr_change h hne with ⟨hclr, -⟩ | ⟨hzero, -⟩
  · exact hw hclr
  · exact herr hzero

end Sys2Proof.Machine

/-! ## Reset's statement (70_reset_and_hazards.md) -/

namespace Sys2Proof.Machine

theorem perform_reset (s : State) : perform .reset s = .next (resetRegisters s) := rfl

/-- A reset leaves the XMODEM preset as the configuration, whatever the state before it (R86, R116). -/
theorem sampleCfg_resetRegisters (s : State) : sampleCfg (resetRegisters s) = presetRow .xmodem := rfl

/-- Settles O48: the step performs the reset on the state without the event, and `resetRegisters` is R34's values. -/
theorem resetSetsEveryRegister : Obligations.ResetSetsEveryRegister := by
  refine fun s rest hp => ⟨?_, sampleCfg_resetRegisters s⟩
  calc step s
    _ = perform .reset { s with pending := rest } := stepPerformsTheOldestEvent.1 s _ rest hp
    _ = .next (resetRegisters { s with pending := rest }) := perform_reset _

end Sys2Proof.Machine

/-! ## Statements over several rules: the legal words, totality, Reflect's algebra, the duality of the two paths,
error detection, chaining, and the window's write followed by a read -/

namespace Sys2Proof.Machine

/-! The legal words -/

/-- The instructions that a command word can encode, in the order of R52's table (R57). -/
def legalInstrs : List Instr :=
  [.nop] ++ [.calcInit] ++ [.calcSeed] ++ (List.range 16).map (fun b => .reflect (b + 1)) ++
    [Preset.xmodem, .kermit, .ccittFalse, .usb].map .preset ++ [.clrerr]

theorem mem_legalInstrs_iff (i : Instr) : i ∈ legalInstrs ↔ i.WellFormed := by
  cases i with
  | reflect bits =>
    have hrange : (∃ b < 16, b + 1 = bits) ↔ 1 ≤ bits ∧ bits ≤ 16 :=
      ⟨fun ⟨b, hb, hbits⟩ => by omega, fun _ => ⟨bits - 1, by omega, by omega⟩⟩
    simpa [legalInstrs, reflect_wellFormed_iff] using hrange
  | preset p => cases p <;> exact iff_of_true (by decide) rfl
  | nop | calcInit | calcSeed | clrerr => exact iff_of_true (by decide) rfl

/-- The words that decode are the encodings of the listed instructions. -/
theorem mem_map_encode_legalInstrs_iff (w : Word) : w ∈ legalInstrs.map encode ↔ ∃ i, decode w = .ok i := by
  simp only [List.mem_map, mem_legalInstrs_iff, decodeExactlyInvertsEncode w]

/-- Settles O4: the listed words are the encodings of `legalInstrs`. -/
theorem exactlyTwentyFourWordsAreLegal : Obligations.ExactlyTwentyFourWordsAreLegal := by
  unfold Obligations.ExactlyTwentyFourWordsAreLegal
  intro words
  have hwords : words = legalInstrs.map encode := by decide
  refine ⟨by decide, by decide, fun w => ?_⟩
  rw [hwords]
  exact mem_map_encode_legalInstrs_iff w

/-- No row selects one of the four illegal words of R58. -/
theorem not_selects_workedIllegalWords {w : Word}
    (hw : w ∈ ([0x00000006, 0x00000101, 0x00000404, 0x00001F03] : List Word)) : ∀ r ∈ opRows, ¬r.selects w = true := by
  simp only [List.mem_cons, List.not_mem_nil, or_false] at hw
  rcases hw with rfl | rfl | rfl | rfl <;> decide

/-- Settles O1: each legal word is the encoding of its command, and no row selects an illegal one. -/
theorem workedCommandWordsDecode : Obligations.WorkedCommandWordsDecode := by
  have hlegal (i : Instr) (hi : i.WellFormed) : decode (encode i) = .ok i := decode_encode hi
  exact ⟨hlegal .calcInit rfl, hlegal .calcSeed rfl, hlegal (.reflect 16) rfl, hlegal (.reflect 8) rfl,
    hlegal (.reflect 1) rfl, hlegal (.preset .xmodem) rfl, hlegal (.preset .kermit) rfl, hlegal (.preset .ccittFalse) rfl,
    hlegal (.preset .usb) rfl, hlegal .clrerr rfl,
    fun w hw => (exists_decode_error_iff w).mpr (not_selects_workedIllegalWords hw)⟩

/-! Totality -/

/-- Settles O10: `exists_exec_next` and `exists_execute_next` are its two clauses. -/
theorem everyCommandAnswersANextState : Obligations.EveryCommandAnswersANextState :=
  ⟨fun _ s hi => exists_exec_next hi s, exists_execute_next⟩

/-- Settles O15: such a width fails REFLECT's own check. -/
theorem reflectRefusesWidthsOutsideItsRange : Obligations.ReflectRefusesWidthsOutsideItsRange := by
  intro s bits hbits
  have hwidth : ¬(1 ≤ bits ∧ bits ≤ 16) := by omega
  exact if_neg hwidth

/-! Reflect's algebra -/

theorem getLsbD_reflect_sixteen (v : Half) (j : Nat) :
    (reflect v 16).getLsbD j = (decide (j < 16) && v.getLsbD (15 - j)) := getLsbD_reflect (by decide) (by decide) v j

/-- Reflecting twice keeps the bits below the width (R67). -/
theorem reflect_reflect {bits : Nat} (h1 : 1 ≤ bits) (h16 : bits ≤ 16) (v : Half) :
    reflect (reflect v bits) bits = v &&& BitVec.ofNat 16 (2 ^ bits - 1) := by
  refine BitVec.eq_of_getLsbD_eq fun j hj => ?_
  rw [getLsbD_reflect h1 h16, getLsbD_reflect h1 h16, BitVec.getLsbD_and, BitVec.getLsbD_ofNat, Nat.testBit_two_pow_sub_one]
  by_cases hlt : j < bits
  · have hmirror : bits - 1 - j < bits := by omega
    have hback : bits - 1 - (bits - 1 - j) = j := by omega
    simp [hlt, hj, hmirror, hback]
  · simp [hlt]

/-- At the register's own width Reflect is its own inverse (R67). -/
@[simp] theorem reflect_reflect_sixteen (v : Half) : reflect (reflect v 16) 16 = v :=
  (reflect_reflect (by decide) (by decide) v).trans BitVec.and_allOnes

theorem reflect_injective : Function.Injective (reflect · 16) :=
  Function.LeftInverse.injective (g := (reflect · 16)) reflect_reflect_sixteen

theorem reflect_zero {bits : Nat} (h1 : 1 ≤ bits) (h16 : bits ≤ 16) : reflect 0 bits = 0 := by
  refine BitVec.eq_of_getLsbD_eq fun j _ => ?_
  simp [getLsbD_reflect h1 h16]

/-- A single bit below the width is moved to its mirror position (R63). -/
theorem reflect_twoPow {bits k : Nat} (h16 : bits ≤ 16) (hk : k < bits) :
    reflect (BitVec.twoPow 16 k) bits = BitVec.twoPow 16 (bits - 1 - k) := by
  refine BitVec.eq_of_getLsbD_eq fun j hj => ?_
  rw [getLsbD_reflect (by omega) h16, BitVec.getLsbD_twoPow, BitVec.getLsbD_twoPow, Bool.eq_iff_iff]
  simp only [Bool.and_eq_true, decide_eq_true_eq]
  omega

theorem ofNat_two_pow_eq_twoPow (k : Nat) : BitVec.ofNat 16 (2 ^ k) = BitVec.twoPow 16 k :=
  BitVec.eq_of_toNat_eq (by rw [BitVec.toNat_ofNat, BitVec.toNat_twoPow])

/-- Settles O17: 0xFFFF is 0xFFFF with every bit reflected, and the other values are `reflect_reflect` and
`reflect_twoPow`. -/
theorem reflectIsSelfInverse : Obligations.ReflectIsSelfInverse := by
  refine ⟨fun v bits h1 h16 => ⟨reflect_reflect h1 h16 v, reflect_zero h1 h16, ?_, ?_⟩, reflect_reflect_sixteen, by decide⟩
  · rw [ofNat_two_pow_eq_twoPow, reflect_twoPow h16 (by omega), Nat.sub_self]
    rfl
  · rw [ofNat_two_pow_eq_twoPow]
    exact reflect_twoPow h16 (k := 0) h1

/-- Reflect distributes over XOR. -/
theorem reflect_xor (v v' : Half) : reflect (v ^^^ v') 16 = reflect v 16 ^^^ reflect v' 16 := by
  refine BitVec.eq_of_getLsbD_eq fun j _ => ?_
  simp only [BitVec.getLsbD_xor, getLsbD_reflect_sixteen, Bool.and_xor_distrib_left]

/-- Reflect exchanges the two directions of shift. -/
theorem reflect_shiftLeft_one (v : Half) : reflect (v <<< 1) 16 = reflect v 16 >>> 1 := by
  refine BitVec.eq_of_getLsbD_eq fun j hj => ?_
  rw [getLsbD_reflect_sixteen, BitVec.getLsbD_shiftLeft, BitVec.getLsbD_ushiftRight, getLsbD_reflect_sixteen, Nat.sub_sub,
    Nat.add_comm j 1, Bool.eq_iff_iff]
  simp only [Bool.and_eq_true, Bool.not_eq_true', decide_eq_true_eq, decide_eq_false_iff_not]
  refine ⟨fun ⟨_, hrange, hv⟩ => ⟨by omega, hv⟩, fun ⟨_, hv⟩ => ⟨hj, by omega, hv⟩⟩

/-- A byte reflected at width 8 (R83). -/
def mirrorByte (b : Byte) : Byte := (reflect (b.setWidth 16) 8).setWidth 8

theorem getLsbD_mirrorByte (b : Byte) (j : Nat) : (mirrorByte b).getLsbD j = (decide (j < 8) && b.getLsbD (7 - j)) := by
  have hwide : 7 - j < 16 := by omega
  rw [mirrorByte, BitVec.getLsbD_setWidth, getLsbD_reflect (by decide) (by decide), BitVec.getLsbD_setWidth]
  simp [hwide]

theorem mirrorByte_mirrorByte (b : Byte) : mirrorByte (mirrorByte b) = b := by
  refine BitVec.eq_of_getLsbD_eq fun j hj => ?_
  have hmirror : 7 - j < 8 := by omega
  have hback : 7 - (7 - j) = j := by omega
  simp only [getLsbD_mirrorByte, hj, hmirror, hback, decide_true, Bool.true_and]

theorem mirrorByte_injective : Function.Injective mirrorByte := Function.LeftInverse.injective mirrorByte_mirrorByte

/-! The forward path with the byte in the register first (R82) -/

/-- One bit step of R82, on the register alone. -/
def registerBitStep (poly : Half) (x : Half) : Half := if x.getLsbD 15 = true then (x <<< 1) ^^^ poly else x <<< 1

/-- A byte in the high half of the register (R82). -/
def highByte (b : Byte) : Half := b.setWidth 16 <<< 8

theorem getLsbD_highByte (b : Byte) (j : Nat) : (highByte b).getLsbD j = (decide (8 ≤ j) && b.getLsbD (j - 8)) := by
  rw [highByte, BitVec.getLsbD_shiftLeft, BitVec.getLsbD_setWidth, Bool.eq_iff_iff]
  simp only [Bool.and_eq_true, Bool.not_eq_true', decide_eq_true_eq, decide_eq_false_iff_not]
  have hbound : b.getLsbD (j - 8) = true → j - 8 < 8 := BitVec.lt_of_getLsbD
  refine ⟨fun ⟨⟨_, hge⟩, _, hb⟩ => ⟨by omega, hb⟩, fun ⟨hge, hb⟩ => ?_⟩
  have hlt := hbound hb
  exact ⟨⟨by omega, by omega⟩, by omega, hb⟩

theorem highByte_shiftLeft_one (b : Byte) : highByte b <<< 1 = highByte (b <<< 1) := by
  refine BitVec.eq_of_getLsbD_eq fun j hj => ?_
  rw [BitVec.getLsbD_shiftLeft, getLsbD_highByte, getLsbD_highByte, BitVec.getLsbD_shiftLeft, Nat.sub_right_comm,
    Bool.eq_iff_iff]
  simp only [Bool.and_eq_true, Bool.not_eq_true', decide_eq_true_eq, decide_eq_false_iff_not]
  refine ⟨fun ⟨_, hge, hb⟩ => ⟨by omega, ⟨by omega, by omega⟩, hb⟩, fun ⟨_, _, hb⟩ => ⟨⟨hj, by omega⟩, by omega, hb⟩⟩

theorem highByte_injective : Function.Injective highByte := fun b b' heq => by
  refine BitVec.eq_of_getLsbD_eq fun j _ => ?_
  have hbit := congrArg (BitVec.getLsbD · (j + 8)) heq
  simpa [getLsbD_highByte] using hbit

/-- R70 compares bit 15 with the byte's bit 7, which is bit 15 after the byte has been XORed in: one step of R82 is one of
R70, the rest of the byte still in the register. -/
theorem registerBitStep_xor_highByte (poly crc : Half) (b : Byte) :
    registerBitStep poly (crc ^^^ highByte b) =
      (fwdBitStep poly (crc, b)).1 ^^^ highByte (fwdBitStep poly (crc, b)).2 := by
  have htop : (crc ^^^ highByte b).getLsbD 15 = true ↔ crc.getLsbD 15 ≠ b.getLsbD 7 := by
    simp [getLsbD_highByte, -BitVec.getLsbD_eq_getElem]
  have hshift : (crc ^^^ highByte b) <<< 1 = crc <<< 1 ^^^ highByte (b <<< 1) := by
    rw [BitVec.shiftLeft_xor_distrib, highByte_shiftLeft_one]
  simp only [registerBitStep, fwdBitStep, htop, hshift]
  split
  · rw [BitVec.xor_assoc, BitVec.xor_comm (highByte _), ← BitVec.xor_assoc]
  · rfl

theorem registerBitStep_iterate_xor_highByte (poly : Half) (k : Nat) (x : Half × Byte) :
    (registerBitStep poly)^[k] (x.1 ^^^ highByte x.2) =
      ((fwdBitStep poly)^[k] x).1 ^^^ highByte ((fwdBitStep poly)^[k] x).2 := by
  have hsemiconj : Function.Semiconj (fun x : Half × Byte => x.1 ^^^ highByte x.2) (fwdBitStep poly)
      (registerBitStep poly) := fun x => (registerBitStep_xor_highByte poly x.1 x.2).symm
  exact ((hsemiconj.iterate_right k).eq x).symm

/-- Every bit step shifts the byte. -/
theorem fwdBitStep_iterate_snd (poly : Half) (k : Nat) (x : Half × Byte) :
    ((fwdBitStep poly)^[k] x).2 = x.2 <<< k := by
  induction k generalizing x with
  | zero => exact (BitVec.shiftLeft_zero _).symm
  | succ k ih =>
    rw [Function.iterate_succ_apply, ih, Nat.add_comm, BitVec.shiftLeft_add]
    rfl

/-- The equivalent forward form (R82): after eight steps nothing of the byte is left. -/
theorem fwdByte_eq_registerBitStep (crc : Half) (b : Byte) (poly : Half) :
    fwdByte crc b poly = (registerBitStep poly)^[8] (crc ^^^ highByte b) := by
  have hspent : highByte ((fwdBitStep poly)^[8] (crc, b)).2 = 0#16 := by
    rw [fwdBitStep_iterate_snd, BitVec.shiftLeft_eq_zero (le_refl 8)]
    rfl
  rw [registerBitStep_iterate_xor_highByte poly 8 (crc, b), hspent, BitVec.xor_zero]
  exact fwdBits_eq_iterate 8 crc b poly

/-- Settles O21: `fwdByte_eq_registerBitStep` with its two definitions written out. -/
theorem fwdByteEqualsTheAlternativeForm : Obligations.FwdByteEqualsTheAlternativeForm := fwdByte_eq_registerBitStep

/-! The duality of the two paths (R83) -/

/-- A bit step of the reflected path is the mirror of one of R82: the shifts and bits 15 and 0 are exchanged. -/
theorem refBitStep_reflect (poly x : Half) :
    refBitStep (reflect poly 16) (reflect x 16) = reflect (registerBitStep poly x) 16 := by
  have hbit : (reflect x 16).getLsbD 0 = x.getLsbD 15 := by simp [getLsbD_reflect_sixteen, -BitVec.getLsbD_eq_getElem]
  rw [refBitStep, registerBitStep, hbit, ← reflect_shiftLeft_one, ← reflect_xor]
  exact (apply_ite (reflect · 16) _ _ _).symm

theorem refBitStep_iterate_reflect (poly : Half) (k : Nat) (x : Half) :
    (refBitStep (reflect poly 16))^[k] (reflect x 16) = reflect ((registerBitStep poly)^[k] x) 16 := by
  have hsemiconj : Function.Semiconj (reflect · 16) (registerBitStep poly) (refBitStep (reflect poly 16)) :=
    fun x => (refBitStep_reflect poly x).symm
  exact ((hsemiconj.iterate_right k).eq x).symm

/-- The mirror of a mirrored byte in the high half is the byte in the low half. -/
theorem reflect_highByte_mirrorByte (b : Byte) : reflect (highByte (mirrorByte b)) 16 = b.setWidth 16 := by
  refine BitVec.eq_of_getLsbD_eq fun j hj => ?_
  rw [getLsbD_reflect_sixteen, getLsbD_highByte, getLsbD_mirrorByte, BitVec.getLsbD_setWidth]
  by_cases hlow : j < 8
  · have hhalf : 8 ≤ 15 - j := by omega
    have hbyte : 15 - j - 8 < 8 := by omega
    have hback : 7 - (15 - j - 8) = j := by omega
    simp [hj, hhalf, hbyte, hback]
  · have hhalf : ¬8 ≤ 15 - j := by omega
    simp [hhalf, BitVec.getLsbD_of_ge b j (Nat.le_of_not_lt hlow)]

/-- The duality of the byte functions, from the register of the forward path (R83). -/
theorem refByte_reflect (crc : Half) (b : Byte) (p : Half) :
    refByte (reflect crc 16) b (reflect p 16) = reflect (fwdByte crc (mirrorByte b) p) 16 :=
  calc refByte (reflect crc 16) b (reflect p 16)
    _ = (refBitStep (reflect p 16))^[8] (reflect crc 16 ^^^ b.setWidth 16) := refBits_eq_iterate 8 _ _
    _ = (refBitStep (reflect p 16))^[8] (reflect (crc ^^^ highByte (mirrorByte b)) 16) := by
      rw [reflect_xor, reflect_highByte_mirrorByte]
    _ = reflect ((registerBitStep p)^[8] (crc ^^^ highByte (mirrorByte b))) 16 := refBitStep_iterate_reflect p 8 _
    _ = reflect (fwdByte crc (mirrorByte b) p) 16 := by rw [fwdByte_eq_registerBitStep]

/-- Settles O22: `refByte_reflect` at the reflection of `crc`. -/
theorem byteFunctionsAreDualUnderReflection : Obligations.ByteFunctionsAreDualUnderReflection := by
  intro crc b p
  have hdual := refByte_reflect (reflect crc 16) b p
  rwa [reflect_reflect_sixteen] at hdual

/-- The duality over a buffer: each byte keeps the register the mirror of the forward path's (R83). -/
theorem process_reflect (bytes : List Byte) (start p : Half) :
    process true (reflect p 16) (reflect start 16) bytes = reflect (process false p start (bytes.map mirrorByte)) 16 := by
  induction bytes generalizing start with
  | nil => rfl
  | cons b bytes ih =>
    have hbyte : stepByte true (reflect p 16) (reflect start 16) b = reflect (stepByte false p start (mirrorByte b)) 16 :=
      refByte_reflect start b p
    rw [process_cons, hbyte, ih, List.map_cons, process_cons]

/-- Settles O23: `process_reflect`, by induction on the buffer. -/
theorem reflectedPathMirrorsTheForwardPath : Obligations.ReflectedPathMirrorsTheForwardPath := process_reflect

/-- The reflected path in terms of the forward path. -/
theorem process_true_eq (poly start : Half) (bytes : List Byte) :
    process true poly start bytes =
      reflect (process false (reflect poly 16) (reflect start 16) (bytes.map mirrorByte)) 16 := by
  simpa only [reflect_reflect_sixteen] using process_reflect bytes (reflect start 16) (reflect poly 16)

/-! Error detection -/

/-- With the low bit of the polynomial set, bit 0 after a step tells whether the polynomial was XORed in. -/
theorem getLsbD_registerBitStep_zero {poly : Half} (hpoly : poly.getLsbD 0 = true) (x : Half) :
    (registerBitStep poly x).getLsbD 0 = x.getLsbD 15 := by
  have hempty : (x <<< 1).getLsbD 0 = false := by simp
  unfold registerBitStep
  split
  · rw [BitVec.getLsbD_xor, hempty, hpoly, ‹x.getLsbD 15 = true›]
    rfl
  · rw [hempty, Bool.eq_false_of_not_eq_true ‹¬x.getLsbD 15 = true›]

/-- So no bit step loses a bit: bit 15 is told by bit 0, and the shift keeps the others. -/
theorem registerBitStep_injective {poly : Half} (hpoly : poly.getLsbD 0 = true) :
    Function.Injective (registerBitStep poly) := fun x y heq => by
  have htop : x.getLsbD 15 = y.getLsbD 15 := by
    rw [← getLsbD_registerBitStep_zero hpoly x, heq, getLsbD_registerBitStep_zero hpoly y]
  have hshift : x <<< 1 = y <<< 1 := by
    unfold registerBitStep at heq
    rw [htop] at heq
    split at heq
    · exact (BitVec.xor_left_inj poly).mp heq
    · exact heq
  refine BitVec.eq_of_getLsbD_eq fun j hj => ?_
  by_cases hlast : j = 15
  · exact hlast ▸ htop
  · have hbit := congrArg (BitVec.getLsbD · (j + 1)) hshift
    have hinside : j + 1 < 16 := by omega
    simpa [hinside, -BitVec.getLsbD_eq_getElem] using hbit

/-- No bit of the register and the byte together is lost by FwdByte (R82). -/
theorem xor_highByte_eq_of_fwdByte_eq {poly : Half} (hpoly : poly.getLsbD 0 = true) {crc crc' : Half} {b b' : Byte}
    (h : fwdByte crc b poly = fwdByte crc' b' poly) : crc ^^^ highByte b = crc' ^^^ highByte b' := by
  rw [fwdByte_eq_registerBitStep, fwdByte_eq_registerBitStep] at h
  exact (registerBitStep_injective hpoly).iterate 8 h

/-- The bytes that follow carry a difference in the register to the end. -/
theorem process_false_injective {poly : Half} (hpoly : poly.getLsbD 0 = true) (bytes : List Byte) :
    Function.Injective (process false poly · bytes) := by
  induction bytes with
  | nil => exact Function.injective_id
  | cons b bytes ih => exact fun crc crc' heq =>
      (BitVec.xor_left_inj _).mp (xor_highByte_eq_of_fwdByte_eq hpoly (ih heq))

theorem process_append (rev : Bool) (poly start : Half) (as bs : List Byte) :
    process rev poly start (as ++ bs) = process rev poly (process rev poly start as) bs := List.foldl_append

/-- The forward path detects a change of one byte. -/
theorem process_false_ne {poly : Half} (hpoly : poly.getLsbD 0 = true) (start : Half) (before after : List Byte)
    {b b' : Byte} (hne : b ≠ b') :
    process false poly start (before ++ b :: after) ≠ process false poly start (before ++ b' :: after) := fun heq => by
  rw [process_append, process_append] at heq
  have hbyte := process_false_injective hpoly after heq
  exact hne (highByte_injective ((BitVec.xor_right_inj _).mp (xor_highByte_eq_of_fwdByte_eq hpoly hbyte)))

/-- So does the reflected path, whose polynomial's top bit is the low bit of its mirror. -/
theorem process_true_ne {poly : Half} (hpoly : poly.getLsbD 15 = true) (start : Half) (before after : List Byte)
    {b b' : Byte} (hne : b ≠ b') :
    process true poly start (before ++ b :: after) ≠ process true poly start (before ++ b' :: after) := fun heq => by
  have hlow : (reflect poly 16).getLsbD 0 = true := by
    simpa [getLsbD_reflect_sixteen, -BitVec.getLsbD_eq_getElem] using hpoly
  rw [process_true_eq, process_true_eq, List.map_append, List.map_append, List.map_cons, List.map_cons] at heq
  exact process_false_ne hlow _ _ _ (mirrorByte_injective.ne hne) (reflect_injective heq)

/-- Settles O24: the mask cancels, and each path detects the change. -/
theorem checksumDetectsAnySingleByteChange : Obligations.ChecksumDetectsAnySingleByteChange := by
  refine ⟨fun p => by cases p <;> decide, fun rev poly start xorout before after b b' hpoly hne heq => ?_⟩
  have hprocess := (BitVec.xor_left_inj xorout).mp heq
  cases rev with
  | false => exact process_false_ne hpoly start before after hne hprocess
  | true => exact process_true_ne hpoly start before after hne hprocess

/-! Values of the checksum -/

/-- Settles O25: each clause is closed, so the kernel runs the engine over the nine digits. -/
theorem standardCheckValues : Obligations.StandardCheckValues := by
  unfold Obligations.StandardCheckValues
  refine ⟨?_, ?_, ?_, ?_, ?_⟩ <;> decide +kernel

theorem registerBitStep_zero_iterate (k : Nat) (x : Half) : (registerBitStep 0)^[k] x = x <<< k := by
  have hstep (x : Half) : registerBitStep 0 x = x <<< 1 := by simp [registerBitStep]
  induction k generalizing x with
  | zero => exact (BitVec.shiftLeft_zero x).symm
  | succ k ih => rw [Function.iterate_succ_apply, ih, hstep, Nat.add_comm, BitVec.shiftLeft_add]

/-- With the zero polynomial FwdByte only shifts, and the byte is shifted out with the high half of the register. -/
theorem fwdByte_zero_poly (crc : Half) (b : Byte) : fwdByte crc b 0 = crc <<< 8 := by
  have hout : highByte b <<< 8 = 0#16 := by
    rw [highByte, ← BitVec.shiftLeft_add]
    exact BitVec.shiftLeft_eq_zero (le_refl 16)
  rw [fwdByte_eq_registerBitStep, registerBitStep_zero_iterate, BitVec.shiftLeft_xor_distrib, hout, BitVec.xor_zero]

/-- With the zero polynomial a register of 0 stays 0. -/
theorem process_false_zero_poly_zero (bytes : List Byte) : process false 0 0 bytes = 0 := by
  induction bytes with
  | nil => rfl
  | cons b bytes ih =>
    have hstep : stepByte false 0 0 b = 0 := fwdByte_zero_poly 0 b
    rw [process_cons, hstep, ih]

/-- Two bytes shift all of the start value out. -/
theorem process_false_zero_poly (start : Half) {bytes : List Byte} (h : 2 ≤ bytes.length) :
    process false 0 start bytes = 0 := by
  match bytes, h with
  | b :: b' :: bytes, _ =>
    have hstep (crc : Half) (b : Byte) : stepByte false 0 crc b = crc <<< 8 := fwdByte_zero_poly crc b
    rw [process_cons, process_cons, hstep, hstep, ← BitVec.shiftLeft_add, BitVec.shiftLeft_eq_zero (le_refl 16)]
    exact process_false_zero_poly_zero bytes

/-- The zero polynomial is its own mirror, so the reflected path gives 0 too. -/
theorem process_zero_poly (rev : Bool) (start : Half) {bytes : List Byte} (h : 2 ≤ bytes.length) :
    process rev 0 start bytes = 0 := by
  have hzero : reflect 0 16 = 0 := reflect_zero (by decide) (by decide)
  cases rev with
  | false => exact process_false_zero_poly start h
  | true => rw [process_true_eq, hzero, process_false_zero_poly _ (by simpa using h), hzero]

theorem length_bufferBytes (s : State) (n : Nat) : (s.bufferBytes n).length = n := by simp [State.bufferBytes]

/-- Settles O30: the register ends at 0, which XOROUT masks. -/
theorem zeroPolynomialGivesTheOutputMask : Obligations.ZeroPolynomialGivesTheOutputMask := by
  intro s hacc hpoly hlen
  have hprocess (start : Half) : process s.ctrlRev s.poly start (s.bufferBytes s.narrowedLen) ^^^ s.xorout = s.xorout := by
    rw [hpoly, process_zero_poly s.ctrlRev start ((length_bufferBytes s s.narrowedLen).symm ▸ hlen)]
    exact BitVec.zero_xor
  exact ⟨⟨_, runCalc_of_accepted s.init hacc, hprocess s.init⟩, ⟨_, runCalc_of_accepted s.seed hacc, hprocess s.seed⟩⟩

/-- Settles O32: CALC and CALCS differ in the register they start from alone. -/
theorem seedEqualToInitGivesCalc : Obligations.SeedEqualToInitGivesCalc := by
  intro s hseed
  calc exec .calcSeed s
    _ = runCalc s.seed s := rfl
    _ = runCalc s.init s := by rw [hseed]
    _ = exec .calcInit s := rfl

/-! Chaining (R79) -/

/-- A CALC or CALCS over a buffer held in memory gives its checksum. -/
theorem runCalc_of_holdsBuffer (start : Half) {s : State} {bytes : List Byte} (h : s.HoldsBuffer bytes) :
    ∃ t, runCalc start s = .next t ∧ t.result = process s.ctrlRev s.poly start bytes ^^^ s.xorout := by
  obtain ⟨hlen, hfits, hacc, hbytes⟩ := h
  have hnarrow : s.narrowedLen = bytes.length := by rw [State.narrowedLen, hlen, Nat.mod_eq_of_lt hfits]
  refine ⟨_, runCalc_of_accepted start hacc, ?_⟩
  rw [setResult_result, hnarrow, hbytes]

/-- Settles O31: XOROUT cancels in the seed, which is the register after A; processing B from it is processing A
followed by B. -/
theorem seededCalculationChainsBuffers : Obligations.SeededCalculationChainsBuffers := by
  intro sA sB sC A B hAB hBC hA hB hC
  obtain ⟨hpolyAB, hinitAB, hxorAB, hrevAB⟩ := Cfg.mk.inj hAB
  obtain ⟨hpolyBC, hinitBC, hxorBC, hrevBC⟩ := Cfg.mk.inj hBC
  obtain ⟨tA, hrunA, hresA⟩ := runCalc_of_holdsBuffer sA.init hA
  have hseed : tA.result ^^^ sA.xorout = process sA.ctrlRev sA.poly sA.init A := by
    rw [hresA, BitVec.xor_assoc, BitVec.xor_self, BitVec.xor_zero]
  obtain ⟨tB, hrunB, hresB⟩ := runCalc_of_holdsBuffer (tA.result ^^^ sA.xorout)
    (s := { sB with seed := tA.result ^^^ sA.xorout }) hB
  obtain ⟨tC, hrunC, hresC⟩ := runCalc_of_holdsBuffer sC.init hC
  refine ⟨tA, tB, tC, hrunA, hrunB, hrunC, ?_, fun hzero => hzero ▸ BitVec.xor_zero⟩
  rw [hresB, hresC, hseed, process_append, hpolyAB, hinitAB, hrevAB, hpolyBC, hinitBC, hrevBC, hxorBC]

/-! A register read after it was written -/

theorem halfWord_halfField (w : Word) : halfWord (halfField w) = w &&& 0x0000FFFF := by
  have hmask : (0x0000FFFF : Word) = BitVec.ofNat 32 (2 ^ 16 - 1) := rfl
  refine BitVec.eq_of_getLsbD_eq fun j hj => ?_
  rw [hmask, BitVec.getLsbD_and, BitVec.getLsbD_ofNat, Nat.testBit_two_pow_sub_one]
  simp [halfWord, halfField, hj, Bool.and_comm]

theorem addrField_eq_and (addrW : Nat) (w : Word) : addrField addrW w = w &&& BitVec.ofNat 32 (2 ^ addrW - 1) := by
  refine BitVec.eq_of_getLsbD_eq fun j hj => ?_
  rw [BitVec.getLsbD_and, BitVec.getLsbD_ofNat, Nat.testBit_two_pow_sub_one, addrField, BitVec.getLsbD_ofNat,
    Nat.testBit_mod_two_pow]
  simp [hj, BitVec.getLsbD, Bool.and_comm]

theorem getLsbD_flagWord (b : Bool) (j : Nat) : (flagWord b).getLsbD j = (decide (j = 0) && b) := by
  cases b <;> simp [flagWord, BitVec.getLsbD_one]

theorem ctrlWord_eq_and (w : Word) : ctrlWord (w.getLsbD 0) (w.getLsbD 1) = w &&& 0x00000003 := by
  have hmask : (0x00000003 : Word) = BitVec.ofNat 32 (2 ^ 2 - 1) := rfl
  refine BitVec.eq_of_getLsbD_eq fun j hj => ?_
  rw [hmask, BitVec.getLsbD_and, BitVec.getLsbD_ofNat, Nat.testBit_two_pow_sub_one, ctrlWord, BitVec.getLsbD_or,
    BitVec.getLsbD_shiftLeft, getLsbD_flagWord, getLsbD_flagWord]
  match j with
  | 0 => simp
  | 1 => simp
  | j + 2 => simp

/-- A host write of a register other than CMD and a read of it both complete; the read logs the register's new value, and
the write leaves the registers that only commands write (R90, R91, R93). -/
theorem perform_write_read {r : Reg} (hr : r ≠ .cmd) (s : State) (w : Word) :
    ∃ t u, perform (.write (s.params.crcBase + regOffset r) 4 w) s = .next t ∧
      perform (.read (s.params.crcBase + regOffset r) 4) t = .next u ∧
      u.observed = s.observed ++ [readReg r (writeReg r w s)] ∧
      t.result = s.result ∧ t.rflout = s.rflout ∧ t.statusErr = s.statusErr ∧ t.statusTrunc = s.statusTrunc := by
  have hread := perform_read_offset (writeReg r w s) r
  rw [writeReg_params] at hread
  exact ⟨_, _, perform_write_of_ne_cmd hr s w, hread, by simp, by simp, by simp, by simp, by simp⟩

/-- Settles O41: each offset is that of a register whose read gives back the fields its write took, and a field cut out of
the word is the word under the field's mask. -/
theorem readAfterWriteClearsReservedBits : Obligations.ReadAfterWriteClearsReservedBits := by
  intro s w off mask _ hmem
  have hwrite {r : Reg} (hr : r ≠ .cmd) {v : Word} (hv : readReg r (writeReg r w s) = v) := hv ▸ perform_write_read hr s w
  simp only [List.mem_cons, List.not_mem_nil, or_false, Prod.mk.injEq] at hmem
  rcases hmem with ⟨rfl, rfl⟩ | ⟨rfl, rfl⟩ | ⟨rfl, rfl⟩ | ⟨rfl, rfl⟩ | ⟨rfl, rfl⟩ | ⟨rfl, rfl⟩ | ⟨rfl, rfl⟩ | ⟨rfl, rfl⟩
  · exact hwrite (r := .poly) nofun (halfWord_halfField w)
  · exact hwrite (r := .init) nofun (halfWord_halfField w)
  · exact hwrite (r := .xorout) nofun (halfWord_halfField w)
  · exact hwrite (r := .ctrl) nofun (ctrlWord_eq_and w)
  · exact hwrite (r := .addr) nofun (addrField_eq_and s.params.addrW w)
  · exact hwrite (r := .len) nofun BitVec.and_allOnes.symm
  · exact hwrite (r := .seed) nofun (halfWord_halfField w)
  · exact hwrite (r := .rflin) nofun (halfWord_halfField w)

end Sys2Proof.Machine
